-- ==== Sys2Proof/Word.lean ====
section
/-! DEFINITION. The widths of the values that cross the block's ports (spec/10_state.md R24, R26; spec/40_codec_core.md R70). -/

namespace Sys2Proof

/-- The operation code port `op[4:0]` (R24). -/
abbrev OpCode := BitVec 5

/-- The first operand port `a[63:0]` (R24). -/
abbrev PortA := BitVec 64

/-- The second operand port `b[15:0]` (R24). -/
abbrev PortB := BitVec 16

/-- The result port `r[63:0]` (R24). -/
abbrev PortR := BitVec 64

/-- A binary16 pattern; every one is legal (R26). -/
abbrev Half := BitVec 16

/-- A float32 bit pattern; every one is legal (R26). -/
abbrev F32 := BitVec 32

/-- A float64 bit pattern; every one is legal (R26). -/
abbrev F64 := BitVec 64

/-- The one 85-bit command word of spec/30_encoding.md R50. -/
abbrev CommandWord := BitVec 85

end Sys2Proof
end

