-- ==== Sys2Proof/Machine/Codec.lean ====
section
/-! DEFINITION. The bit codec core of spec/40_codec_core.md: field split, field pack and rebias (R70 to R77), on unbounded integers
(spec/00_scope.md R8). -/

namespace Sys2Proof.Machine

/-- `v[hi:lo]`, that is `(v >> lo) mod 2^(hi-lo+1)` (spec/00_scope.md R8). -/
def slice (v hi lo : Nat) : Nat :=
  (v >>> lo) % 2 ^ (hi - lo + 1)

/-- The (sign, exponent field, mantissa field) of a pattern. -/
structure Fields where
  s : Nat
  E : Nat
  M : Nat
  deriving DecidableEq, Repr

/-- R71. -/
def fields16 (h : Half) : Fields where
  s := slice h.toNat 15 15
  E := slice h.toNat 14 10
  M := slice h.toNat 9 0

/-- R72. -/
def fields32 (f : F32) : Fields where
  s := slice f.toNat 31 31
  E := slice f.toNat 30 23
  M := slice f.toNat 22 0

/-- R73. The float64 positions are the spec's derivation (R70): notes/assumptions/15.md. -/
def fields64 (d : F64) : Fields where
  s := slice d.toNat 63 63
  E := slice d.toNat 62 52
  M := slice d.toNat 51 0

/-- R74. -/
def pack16 (s E M : Nat) : Half :=
  BitVec.ofNat 16 ((s <<< 15) ||| (E <<< 10) ||| M)

/-- R75. -/
def pack32 (s E M : Nat) : F32 :=
  BitVec.ofNat 32 ((s <<< 31) ||| (E <<< 23) ||| M)

/-- R76. -/
def pack64 (s E M : Nat) : F64 :=
  BitVec.ofNat 64 ((s <<< 63) ||| (E <<< 52) ||| M)

/-- The bias of the half (R70). -/
def bias16 : Int := 15

/-- The bias of the float32 pattern (R70). -/
def bias32 : Int := 127

/-- The bias of the float64 pattern (R70). -/
def bias64 : Int := 1023

/-- R77: a signed integer of unbounded range. -/
def rebias (E : Nat) (oldBias newBias : Int) : Int :=
  E - oldBias + newBias

end Sys2Proof.Machine
end

