-- ==== Sys2Proof/Machine/Flags.lean ====
section
/-! DEFINITION. The one-bit conditions the block computes. None of them is stored: there is no flag and no condition code
(spec/10_state.md R23). The predicates are spec/42_classification.md's, the comparison outcome spec/43_comparison.md's. -/

namespace Sys2Proof.Machine

/-- R120. -/
def isZero16 (h : Half) : Bool :=
  h &&& 0x7FFF#16 == 0#16

/-- R121. -/
def isNaN16 (h : Half) : Bool :=
  (fields16 h).E == 0x1F && (fields16 h).M != 0

/-- R122. -/
def isInf16 (h : Half) : Bool :=
  (fields16 h).E == 0x1F && (fields16 h).M == 0

/-- R123. -/
def isFinite16 (h : Half) : Bool :=
  !(isNaN16 h || isInf16 h)

/-- R124. -/
def sign16 (h : Half) : Bool :=
  (fields16 h).s == 1

/-- R125, a helper that no operation returns. -/
def isSubnormal16 (h : Half) : Bool :=
  (fields16 h).E == 0 && (fields16 h).M != 0

/-- R125, a helper that no operation returns. -/
def isNormal16 (h : Half) : Bool :=
  (fields16 h).E != 0 && (fields16 h).E != 0x1F

/-- The four-way outcome of comparing two halves (R130). -/
inductive CmpOutcome where
  | less
  | equal
  | greater
  | unordered
  deriving DecidableEq, Repr

/-- R131: the signed integer whose order is the order of the non-NaN halves. -/
def key16 (h : Half) : Int :=
  if sign16 h then -((h &&& 0x7FFF#16).toNat : Int) else ((h &&& 0x7FFF#16).toNat : Int)

/-- R130 in the integer formulation of R131. DEDUCED by the spec (R131, R138), exact: notes/assumptions/12.md. -/
def cmp16 (x y : Half) : CmpOutcome :=
  if isNaN16 x || isNaN16 y then .unordered
  else if key16 x < key16 y then .less
  else if key16 x = key16 y then .equal
  else .greater

/-- R132. -/
def feq (x y : Half) : Bool := cmp16 x y == .equal

/-- R133. -/
def fne (x y : Half) : Bool := !feq x y

/-- R134. -/
def flt (x y : Half) : Bool := cmp16 x y == .less

/-- R135. -/
def fle (x y : Half) : Bool := cmp16 x y == .less || cmp16 x y == .equal

/-- R136. -/
def fgt (x y : Half) : Bool := cmp16 x y == .greater

/-- R137. -/
def fge (x y : Half) : Bool := cmp16 x y == .greater || cmp16 x y == .equal

end Sys2Proof.Machine
end

