-- ==== Sys2Proof/Config.lean ====
section
/-! DEFINITION. The parameters of spec/00_scope.md R6 that are values: the one the spec decides, and the two it leaves OPEN.
NAN_DETECT, D2F_ROUNDING and NEXTAFTER_NAN are ways of computing and stand in Machine/Conversion.lean and
Machine/NextAfter.lean; LATENCY is none. -/

namespace Sys2Proof.Config

/-- `NARROW_NAN_FIXUP`: the mantissa a NaN gets when the narrowing shift leaves 0 (R6; spec/41_conversion.md R95; the spec's
own decision D8). UNVERIFIED of the original software: notes/assumptions/8.md; unsafe on the exact pattern, safe on "is a NaN". -/
def narrowNanFixup : Nat := 0x001

/-- `NONAN_UNSPEC(op, a, b)`: the result bit of a no-NaN comparison with a NaN operand, OPEN (R6;
spec/43_comparison.md R141). A free value: no body, so nothing proves which Boolean it is. DESIGN CHOICE of the form,
safe: notes/assumptions/5.md. -/
opaque nonanUnspec : OpCode → Half → Half → Bool

/-- `RESERVED_OP(op, a, b)`: what stands on `r` while a reserved code is on `op`, OPEN (R6; spec/30_encoding.md R57). A free value: no
body. The transaction itself is refused, so no result is ever read from it. DESIGN CHOICE of the form, safe:
notes/assumptions/19.md. -/
opaque reservedResult : OpCode → PortA → PortB → PortR

end Sys2Proof.Config
end

