-- ==== Sys2Proof/Syntax.lean ====
section
/-! DEFINITION. The abstract syntax: one constructor per row of spec/opcode_table.json (spec/30_encoding.md R55), each with the
operand patterns its format reads (R50, R51, R52), and the command a host presents. -/

namespace Sys2Proof

/-- The four formats of R50, which differ only in the operand bits they read. -/
inductive Format where
  /-- reads `a[15:0]` -/
  | U16
  /-- reads `a[31:0]` -/
  | U32
  /-- reads `a[63:0]` -/
  | U64
  /-- reads `a[15:0]` and `b[15:0]` -/
  | B16
  deriving DecidableEq, Repr

/-- The four result types of R26. -/
inductive ResultType where
  | bool
  | half
  | f32
  | f64
  deriving DecidableEq, Repr

/-- The complete operation list, R55. The operands are named as R51 names the slices: `h`, `x` are `a[15:0]`, `y` is `b[15:0]`,
`f` is `a[31:0]`, `d` is `a[63:0]`. -/
inductive Instr where
  /-- R90 -/
  | h2f (h : Half)
  /-- R93 -/
  | f2h (f : F32)
  /-- R99 -/
  | h2d (h : Half)
  /-- R102 -/
  | d2h (d : F64)
  /-- R120 -/
  | iszero (h : Half)
  /-- R121 -/
  | isnan (h : Half)
  /-- R122 -/
  | isinf (h : Half)
  /-- R123 -/
  | isfinite (h : Half)
  /-- R124 -/
  | signbit (h : Half)
  /-- R150 -/
  | neg (h : Half)
  /-- R151 -/
  | abs (h : Half)
  /-- R152: magnitude from `x`, sign from `y` -/
  | copysign (x y : Half)
  /-- R160: from `x` toward `y` -/
  | nextafter (x y : Half)
  /-- R132 -/
  | eq (x y : Half)
  /-- R133 -/
  | ne (x y : Half)
  /-- R134 -/
  | lt (x y : Half)
  /-- R135 -/
  | le (x y : Half)
  /-- R136 -/
  | gt (x y : Half)
  /-- R137 -/
  | ge (x y : Half)
  /-- R141 -/
  | eqNonan (x y : Half)
  /-- R142 -/
  | neNonan (x y : Half)
  /-- R143 -/
  | ltNonan (x y : Half)
  /-- R144 -/
  | leNonan (x y : Half)
  /-- R145 -/
  | gtNonan (x y : Half)
  /-- R146 -/
  | geNonan (x y : Half)
  deriving DecidableEq, Repr

/-- A command: the triple of input port values of one transaction (R50). -/
structure Command where
  op : OpCode
  a : PortA
  b : PortB
  deriving DecidableEq, Repr

end Sys2Proof
end

