-- ==== Sys2Proof/Machine/Operands.lean ====
section
/-! DEFINITION. Every operand form and result placement of the block: an operand is the low bits of its port, a result is
right-aligned with zeros above (spec/10_state.md R24, R25; spec/30_encoding.md R50, R51). There is no immediate, no addressing
mode and no register operand (R51, R54). -/

namespace Sys2Proof

/-- How many bits of port `a` a format reads (R50). -/
def Format.aBits : Format → Nat
  | .U16 => 16
  | .U32 => 32
  | .U64 => 64
  | .B16 => 16

/-- How many bits of port `b` a format reads (R50). -/
def Format.bBits : Format → Nat
  | .U16 => 0
  | .U32 => 0
  | .U64 => 0
  | .B16 => 16

/-- How many bits of `r` a result type occupies (R24, R26). -/
def ResultType.width : ResultType → Nat
  | .bool => 1
  | .half => 16
  | .f32 => 32
  | .f64 => 64

end Sys2Proof

namespace Sys2Proof.Machine

/-- `a[15:0]` (R51). -/
def halfA (c : Command) : Half := c.a.setWidth 16

/-- `a[31:0]` (R51). -/
def f32A (c : Command) : F32 := c.a.setWidth 32

/-- `a[63:0]` (R51). -/
def f64A (c : Command) : F64 := c.a

/-- `b[15:0]` (R51). -/
def halfB (c : Command) : Half := c.b

/-- A Boolean result: `r = 1` for true, `r = 0` for false (R25). -/
def placeBool (v : Bool) : PortR := if v then 1 else 0

/-- A half result in `r[15:0]`, zeros above (R25). -/
def placeHalf (h : Half) : PortR := h.setWidth 64

/-- A float32 result in `r[31:0]`, zeros above (R25). -/
def placeF32 (f : F32) : PortR := f.setWidth 64

/-- A float64 result in `r[63:0]` (R25). -/
def placeF64 (d : F64) : PortR := d

end Sys2Proof.Machine
end

