-- ==== Sys2Proof/WellFormed.lean ====
section
/-! DEFINITION. What a host may issue. A term of Instr has no further check: every operand pattern is legal
(spec/30_encoding.md R58) and its width is in its type. The one ill-formed command is one with a reserved operation code
(R57). The host's other obligation, the no-NaN contract, is in Safety.lean. -/

namespace Sys2Proof

/-- The seven reserved operation codes (R57). -/
def reservedCodes : List OpCode :=
  [0x0D, 0x0E, 0x0F, 0x16, 0x17, 0x1E, 0x1F]

/-- Is this code reserved (R57)? -/
def isReserved (op : OpCode) : Bool :=
  reservedCodes.contains op

/-- A command a host may issue names an operation (R57: "A host must not issue a reserved code"). -/
def Command.wellFormed (c : Command) : Bool :=
  !isReserved c.op

end Sys2Proof
end

