-- ==== Sys2Proof/Decode.lean ====
section
/-! DEFINITION. The decoder and, after it, the encoder, from the operation table of spec/30_encoding.md R53, R55 and the field
positions of R50. The decoder is total on every command; a reserved code is rejected by name (R57). -/

namespace Sys2Proof

open Sys2Proof.Machine

/-- Why a command decodes to no operation. -/
inductive Reject where
  /-- The code is one of the seven reserved ones (R57). -/
  | reservedCode (op : OpCode)
  deriving DecidableEq, Repr

/-- The operation a command selects. The decoder looks at `op` alone (R50); the operands are the port slices the format reads
(R51), so the bits a format does not read are dropped here and nowhere else (spec/10_state.md R25). -/
def decode (c : Command) : Except Reject Instr :=
  match c.op.toNat with
  | 0x00 => .ok (.h2f (halfA c))
  | 0x01 => .ok (.f2h (f32A c))
  | 0x02 => .ok (.h2d (halfA c))
  | 0x03 => .ok (.d2h (f64A c))
  | 0x04 => .ok (.iszero (halfA c))
  | 0x05 => .ok (.isnan (halfA c))
  | 0x06 => .ok (.isinf (halfA c))
  | 0x07 => .ok (.isfinite (halfA c))
  | 0x08 => .ok (.signbit (halfA c))
  | 0x09 => .ok (.neg (halfA c))
  | 0x0A => .ok (.abs (halfA c))
  | 0x0B => .ok (.copysign (halfA c) (halfB c))
  | 0x0C => .ok (.nextafter (halfA c) (halfB c))
  | 0x10 => .ok (.eq (halfA c) (halfB c))
  | 0x11 => .ok (.ne (halfA c) (halfB c))
  | 0x12 => .ok (.lt (halfA c) (halfB c))
  | 0x13 => .ok (.le (halfA c) (halfB c))
  | 0x14 => .ok (.gt (halfA c) (halfB c))
  | 0x15 => .ok (.ge (halfA c) (halfB c))
  | 0x18 => .ok (.eqNonan (halfA c) (halfB c))
  | 0x19 => .ok (.neNonan (halfA c) (halfB c))
  | 0x1A => .ok (.ltNonan (halfA c) (halfB c))
  | 0x1B => .ok (.leNonan (halfA c) (halfB c))
  | 0x1C => .ok (.gtNonan (halfA c) (halfB c))
  | 0x1D => .ok (.geNonan (halfA c) (halfB c))
  | _ => .error (.reservedCode c.op)

/-- The fields of the 85-bit command word: `cmd[84:80] = op`, `cmd[79:16] = a`, `cmd[15:0] = b` (R50). -/
def Command.ofWord (w : CommandWord) : Command where
  op := w.extractLsb' 80 5
  a := w.extractLsb' 16 64
  b := w.extractLsb' 0 16

/-- The decoder on the command word of R50. -/
def decodeWord (w : CommandWord) : Except Reject Instr :=
  decode (Command.ofWord w)

/-- The command a row's bits stand for as spec/opcode_table.json numbers them: the table's bits are those of `op` (R50: `match` and
`mask` are values of the 5-bit `op` field), bits above bit 4 are on no wire, and the operands, to which the table gives no bits,
are 0. DESIGN CHOICE, safe: notes/assumptions/4.md. -/
def tableCommand (w : Nat) : Command where
  op := BitVec.ofNat 5 w
  a := 0
  b := 0

/-- The instruction the decoder reads from a table word; `none` where it rejects. -/
def decodeTableWord (_nbits w : Nat) : Option Instr :=
  match decode (tableCommand w) with
  | .ok i => some i
  | .error _ => none

/-- The operation code of R55. -/
def Instr.code : Instr → OpCode
  | .h2f _ => 0x00
  | .f2h _ => 0x01
  | .h2d _ => 0x02
  | .d2h _ => 0x03
  | .iszero _ => 0x04
  | .isnan _ => 0x05
  | .isinf _ => 0x06
  | .isfinite _ => 0x07
  | .signbit _ => 0x08
  | .neg _ => 0x09
  | .abs _ => 0x0A
  | .copysign _ _ => 0x0B
  | .nextafter _ _ => 0x0C
  | .eq _ _ => 0x10
  | .ne _ _ => 0x11
  | .lt _ _ => 0x12
  | .le _ _ => 0x13
  | .gt _ _ => 0x14
  | .ge _ _ => 0x15
  | .eqNonan _ _ => 0x18
  | .neNonan _ _ => 0x19
  | .ltNonan _ _ => 0x1A
  | .leNonan _ _ => 0x1B
  | .gtNonan _ _ => 0x1C
  | .geNonan _ _ => 0x1D

/-- The format column of R55. -/
def Instr.format : Instr → Format
  | .h2f _ | .h2d _ => .U16
  | .f2h _ => .U32
  | .d2h _ => .U64
  | .iszero _ | .isnan _ | .isinf _ | .isfinite _ | .signbit _ => .U16
  | .neg _ | .abs _ => .U16
  | .copysign _ _ | .nextafter _ _ => .B16
  | .eq _ _ | .ne _ _ | .lt _ _ | .le _ _ | .gt _ _ | .ge _ _ => .B16
  | .eqNonan _ _ | .neNonan _ _ | .ltNonan _ _ | .leNonan _ _ | .gtNonan _ _ | .geNonan _ _ => .B16

/-- The result column of R55. -/
def Instr.resultType : Instr → ResultType
  | .h2f _ => .f32
  | .f2h _ => .half
  | .h2d _ => .f64
  | .d2h _ => .half
  | .iszero _ | .isnan _ | .isinf _ | .isfinite _ | .signbit _ => .bool
  | .neg _ | .abs _ => .half
  | .copysign _ _ | .nextafter _ _ => .half
  | .eq _ _ | .ne _ _ | .lt _ _ | .le _ _ | .gt _ _ | .ge _ _ => .bool
  | .eqNonan _ _ | .neNonan _ _ | .ltNonan _ _ | .leNonan _ _ | .gtNonan _ _ | .geNonan _ _ => .bool

/-- What the encoder puts on port `a`: the first operand right-aligned, zeros above (R24). -/
def Instr.portA : Instr → PortA
  | .f2h f => f.setWidth 64
  | .d2h d => d
  | .h2f h | .h2d h | .iszero h | .isnan h | .isinf h | .isfinite h | .signbit h | .neg h | .abs h => h.setWidth 64
  | .copysign x _ | .nextafter x _ => x.setWidth 64
  | .eq x _ | .ne x _ | .lt x _ | .le x _ | .gt x _ | .ge x _ => x.setWidth 64
  | .eqNonan x _ | .neNonan x _ | .ltNonan x _ | .leNonan x _ | .gtNonan x _ | .geNonan x _ => x.setWidth 64

/-- What the encoder puts on port `b`: the second operand, or zeros (R24). -/
def Instr.portB : Instr → PortB
  | .h2f _ | .f2h _ | .h2d _ | .d2h _ => 0
  | .iszero _ | .isnan _ | .isinf _ | .isfinite _ | .signbit _ | .neg _ | .abs _ => 0
  | .copysign _ y | .nextafter _ y => y
  | .eq _ y | .ne _ y | .lt _ y | .le _ y | .gt _ y | .ge _ y => y
  | .eqNonan _ y | .neNonan _ y | .ltNonan _ y | .leNonan _ y | .gtNonan _ y | .geNonan _ y => y

/-- The command of an operation, unused operand bits driven to 0. -/
def encode (i : Instr) : Command where
  op := i.code
  a := i.portA
  b := i.portB

/-- The command word of R50. -/
def Command.toWord (c : Command) : CommandWord :=
  c.op ++ c.a ++ c.b

/-- The command word of an operation. -/
def encodeWord (i : Instr) : CommandWord :=
  (encode i).toWord

/-- The bits of a command that a format reads, every other operand bit 0 (R25, R50). -/
def Command.readBits (f : Format) (c : Command) : Command where
  op := c.op
  a := (c.a.setWidth f.aBits).setWidth 64
  b := (c.b.setWidth f.bBits).setWidth 16

end Sys2Proof
end

