-- ==== Sys2Proof/Machine/State.lean ====
section
/-! DEFINITION. The state: the present values of the block's four ports (spec/10_state.md R24) and nothing else, since the block
has no register, flag, program counter, memory or mode (R20 to R23, R27 to R31). -/

namespace Sys2Proof.Machine

/-- The ports of R24. `op`, `a`, `b` are what the host drives; `r` is what the block drives, at all times the output for the present
inputs (R20): reset, presenting a command and every step leave it so (`State.Settled`, Safety.lean).
DESIGN CHOICE: the spec's block holds no state, but a step from State to State must carry the port values; safe:
notes/assumptions/1.md. -/
structure State where
  op : OpCode
  a : PortA
  b : PortB
  r : PortR
  deriving DecidableEq, Repr

/-- The input ports as one command (R50). -/
def State.command (s : State) : Command where
  op := s.op
  a := s.a
  b := s.b

/-- The ways a step could fault: none (spec/60_exceptions.md R170, R176: "There is no fault outcome"). -/
inductive Fault : Type
  deriving DecidableEq, Repr

/-- The ways a step can refuse. -/
inductive Refusal where
  /-- Raised by an arm of `exec` whose instruction has no meaning yet; no arm does. Safe. -/
  | notModelled (mnemonic : String)
  /-- Raised by `step` for a reserved operation code (spec/30_encoding.md R57: a model "refuses the transaction"). Safe. -/
  | reservedOp (op : OpCode)
  deriving DecidableEq, Repr

/-- The block before the host has driven anything. The spec gives no reset value, since it has no state (R31); DESIGN CHOICE:
the input ports carry zeros, and `r` is then what R31 asks for, the result of H2F on 0x0000. Unsafe:
notes/assumptions/2.md. -/
def State.reset : State where
  op := 0
  a := 0
  b := 0
  r := 0

end Sys2Proof.Machine
end

