-- ==== Sys2Proof/Machine/Ops.lean ====
section
/-! DEFINITION. The one operation a meaning ends in: a transaction writes only `r` (spec/10_state.md R20). The host's operation, which
puts a command on the input ports, is in Machine/Ports.lean. There is no memory to access
(spec/20_memory.md R40), no register, and no exception to take or to return from (spec/60_exceptions.md R170, R174, R175). -/

namespace Sys2Proof.Machine

/-- What a meaning answers. -/
abbrev Result := Host.Outcome State Fault Refusal

/-- The end of a transaction: the result stands on `r`, all else is as it was (R20). -/
def State.drive (s : State) (v : PortR) : Result :=
  .next { s with r := v }

end Sys2Proof.Machine
end

