-- ==== Sys2Proof/Machine/Classification.lean ====
section
/-! DEFINITION. fp_classifier: spec/42_classification.md R120 to R124. -/

namespace Sys2Proof.Machine

/-- ISZERO, op 0x04 (R120). -/
def execIszero (h : Half) (s : State) : Result := s.drive (placeBool (isZero16 h))

/-- ISNAN, op 0x05 (R121). -/
def execIsnan (h : Half) (s : State) : Result := s.drive (placeBool (isNaN16 h))

/-- ISINF, op 0x06 (R122). -/
def execIsinf (h : Half) (s : State) : Result := s.drive (placeBool (isInf16 h))

/-- ISFINITE, op 0x07 (R123). -/
def execIsfinite (h : Half) (s : State) : Result := s.drive (placeBool (isFinite16 h))

/-- SIGNBIT, op 0x08 (R124). -/
def execSignbit (h : Half) (s : State) : Result := s.drive (placeBool (sign16 h))

end Sys2Proof.Machine
end

