-- ==== Sys2Proof/Machine/Comparison.lean ====
section
/-! DEFINITION. fp_comparator: spec/43_comparison.md R132 to R137 and the no-NaN variants R141 to R146. -/

namespace Sys2Proof.Machine

/-- EQ, op 0x10 (R132). -/
def execEq (x y : Half) (s : State) : Result := s.drive (placeBool (feq x y))

/-- NE, op 0x11 (R133). -/
def execNe (x y : Half) (s : State) : Result := s.drive (placeBool (fne x y))

/-- LT, op 0x12 (R134). -/
def execLt (x y : Half) (s : State) : Result := s.drive (placeBool (flt x y))

/-- LE, op 0x13 (R135). -/
def execLe (x y : Half) (s : State) : Result := s.drive (placeBool (fle x y))

/-- GT, op 0x14 (R136). -/
def execGt (x y : Half) (s : State) : Result := s.drive (placeBool (fgt x y))

/-- GE, op 0x15 (R137). -/
def execGe (x y : Half) (s : State) : Result := s.drive (placeBool (fge x y))

/-- The contract common to the six no-NaN variants (R141): the general comparison when neither operand is NaN, otherwise the open
parameter `unspec`. -/
def nonan (unspec : OpCode → Half → Half → Bool) (op : OpCode) (general : Half → Half → Bool) (x y : Half) : Bool :=
  if !isNaN16 x && !isNaN16 y then general x y else unspec op x y

/-- EQ_NONAN, op 0x18 (R141). -/
def execEqNonan (x y : Half) (s : State) : Result := s.drive (placeBool (nonan Config.nonanUnspec 0x18 feq x y))

/-- NE_NONAN, op 0x19 (R142). -/
def execNeNonan (x y : Half) (s : State) : Result := s.drive (placeBool (nonan Config.nonanUnspec 0x19 fne x y))

/-- LT_NONAN, op 0x1A (R143). -/
def execLtNonan (x y : Half) (s : State) : Result := s.drive (placeBool (nonan Config.nonanUnspec 0x1A flt x y))

/-- LE_NONAN, op 0x1B (R144). -/
def execLeNonan (x y : Half) (s : State) : Result := s.drive (placeBool (nonan Config.nonanUnspec 0x1B fle x y))

/-- GT_NONAN, op 0x1C (R145). -/
def execGtNonan (x y : Half) (s : State) : Result := s.drive (placeBool (nonan Config.nonanUnspec 0x1C fgt x y))

/-- GE_NONAN, op 0x1D (R146). -/
def execGeNonan (x y : Half) (s : State) : Result := s.drive (placeBool (nonan Config.nonanUnspec 0x1D fge x y))

end Sys2Proof.Machine
end

