-- ==== Sys2Proof/Machine/Conversion.lean ====
section
/-! DEFINITION. fp16_decoder, fp16_encoder and fp_format_converter: spec/41_conversion.md. -/

namespace Sys2Proof.Machine

/-- The normalisation loop of R90 and R98: `while m[top] == 0 do m = m << 1; w = w - 1`, at most `bound` times. For a non-zero mantissa
below 2^top, `top` iterations reach the exit (R198). -/
def normalise (top : Nat) : (bound m : Nat) → (w : Int) → Nat × Int
  | 0, m, w => (m, w)
  | bound + 1, m, w => if m.testBit top then (m, w) else normalise top bound (m <<< 1) (w - 1)

/-- The subnormal branch of R90. The working exponent starts at 1 (R92, DEDUCED by the spec: notes/assumptions/11.md). -/
def widenSubnormal16 (s M : Nat) : F32 :=
  let (m, w) := normalise 10 10 M 1
  pack32 s (rebias 0 bias16 bias32 + w).toNat ((m &&& 0x3FF) <<< 13)

/-- `H2F`, R90, on the fields of the half. -/
def h2fFields (F : Fields) : F32 :=
  if F.E = 0x1F then
    if F.M = 0 then pack32 F.s 0xFF 0
    else pack32 F.s 0xFF (F.M <<< 13)
  else if F.E = 0 then
    if F.M = 0 then pack32 F.s 0 0
    else widenSubnormal16 F.s F.M
  else pack32 F.s (rebias F.E bias16 bias32).toNat (F.M <<< 13)

/-- R90. -/
def h2f (h : Half) : F32 := h2fFields (fields16 h)

/-- The mantissa of a narrowed NaN: the shifted one, or the fix-up where the shift leaves 0 (R95, R101; the spec's own decision D8:
notes/assumptions/8.md). -/
def narrowNanMantissa (m : Nat) : Nat :=
  if m = 0 then Config.narrowNanFixup else m

/-- `F2H`, R93, on the fields of the float32 pattern. NaN and infinity are told by the unrebiased exponent field (R95, the spec's own
decision D7: notes/assumptions/7.md); the mantissa is truncated (R94). -/
def f2hFields (F : Fields) : Half :=
  let e := rebias F.E bias32 bias16
  if F.E = 0xFF then
    if F.M = 0 then pack16 F.s 0x1F 0
    else pack16 F.s 0x1F (narrowNanMantissa (F.M >>> 13))
  else if e ≥ 31 then pack16 F.s 0x1F 0
  else if e ≤ 0 then
    if e < -10 then pack16 F.s 0 0
    else pack16 F.s 0 ((0x800000 ||| F.M) >>> (14 - e).toNat)
  else pack16 F.s e.toNat (F.M >>> 13)

/-- R93. -/
def f2h (f : F32) : Half := f2hFields (fields32 f)

/-- The float32 subnormal branch of R98, which H2D never reaches (R96). -/
def widenSubnormal32 (s M : Nat) : F64 :=
  let (m, w) := normalise 23 23 M 1
  pack64 s (rebias 0 bias32 bias64 + w).toNat ((m &&& 0x7FFFFF) <<< 29)

/-- `widen`, R98, on the fields of the float32 pattern (the spec's own decision D9: notes/assumptions/9.md). -/
def widenFields (F : Fields) : F64 :=
  if F.E = 0xFF then pack64 F.s 0x7FF (F.M <<< 29)
  else if F.E = 0 ∧ F.M = 0 then pack64 F.s 0 0
  else if F.E = 0 then widenSubnormal32 F.s F.M
  else pack64 F.s (rebias F.E bias32 bias64).toNat (F.M <<< 29)

/-- R98. -/
def widen (f : F32) : F64 := widenFields (fields32 f)

/-- R99: composed through the float32 pattern. -/
def h2d (h : Half) : F64 := widen (h2f h)

/-- `narrow`, R101, on the fields of the float64 pattern (the spec's own decision D10: notes/assumptions/9.md). -/
def narrowFields (F : Fields) : F32 :=
  let e32 := rebias F.E bias64 bias32
  if F.E = 0x7FF then
    if F.M = 0 then pack32 F.s 0xFF 0
    else pack32 F.s 0xFF (narrowNanMantissa (F.M >>> 29))
  else if e32 ≥ 255 then pack32 F.s 0xFF 0
  else if e32 ≤ 0 then pack32 F.s 0 0
  else pack32 F.s e32.toNat (F.M >>> 29)

/-- R101. -/
def narrow (d : F64) : F32 := narrowFields (fields64 d)

/-- R102: composed through the float32 pattern. -/
def d2h (d : F64) : Half := f2h (narrow d)

/-- H2F, op 0x00 (R90). -/
def execH2f (h : Half) (s : State) : Result := s.drive (placeF32 (h2f h))

/-- F2H, op 0x01 (R93). -/
def execF2h (f : F32) (s : State) : Result := s.drive (placeHalf (f2h f))

/-- H2D, op 0x02 (R99). -/
def execH2d (h : Half) (s : State) : Result := s.drive (placeF64 (h2d h))

/-- D2H, op 0x03 (R102). -/
def execD2h (d : F64) (s : State) : Result := s.drive (placeHalf (d2h d))

end Sys2Proof.Machine
end

