-- ==== Sys2Proof/Machine/NextAfter.lean ====
section
/-! DEFINITION. fp_nextafter: spec/45_nextafter.md R160, with the comparator's own feq and fgt (R162). -/

namespace Sys2Proof.Machine

/-- `NEXTAFTER_NAN`: the NaN operand, `x` first (spec/00_scope.md R6; the spec's own decision D13: notes/assumptions/10.md). -/
def nextafterNan (x y : Half) : Half := if isNaN16 x then x else y

/-- Case (4) of R160: one step of the integer pattern, up exactly when `x > y` agrees with the sign of `x`. -/
def stepPattern (x y : Half) : Half := if fgt x y == sign16 x then x + 1 else x - 1

/-- R160, its cases in its order. -/
def nextafter (x y : Half) : Half :=
  if isNaN16 x || isNaN16 y then nextafterNan x y
  else if feq x y then y
  else if isZero16 x then (if fgt y 0x0000#16 then 0x0001#16 else 0x8001#16)
  else stepPattern x y

/-- NEXTAFTER, op 0x0C (R160). -/
def execNextafter (x y : Half) (s : State) : Result := s.drive (placeHalf (nextafter x y))

end Sys2Proof.Machine
end

