-- ==== Sys2Proof/Machine/SignOps.lean ====
section
/-! DEFINITION. fp_copysign: spec/44_sign_ops.md R150 to R152. No operand's class is looked at. -/

namespace Sys2Proof.Machine

/-- R150: flip the sign bit only. -/
def neg16 (h : Half) : Half := h ^^^ 0x8000#16

/-- R151: clear the sign bit only. -/
def abs16 (h : Half) : Half := h &&& 0x7FFF#16

/-- R152: the magnitude bits of `x` with the sign bit of `y`. -/
def copysign16 (x y : Half) : Half := (x &&& 0x7FFF#16) ||| (y &&& 0x8000#16)

/-- NEG, op 0x09 (R150). -/
def execNeg (h : Half) (s : State) : Result := s.drive (placeHalf (neg16 h))

/-- ABS, op 0x0A (R151). -/
def execAbs (h : Half) (s : State) : Result := s.drive (placeHalf (abs16 h))

/-- COPYSIGN, op 0x0B (R152). -/
def execCopysign (x y : Half) (s : State) : Result := s.drive (placeHalf (copysign16 x y))

end Sys2Proof.Machine
end

