-- ==== Sys2Proof/Machine/Dispatch.lean ====
section
/-! DEFINITION. One arm per constructor of Instr: the function `exec` of spec/00_scope.md R9 and spec/60_exceptions.md R176. -/

namespace Sys2Proof.Machine

def exec (i : Instr) (s : State) : Host.Outcome State Fault Refusal :=
  match i with
  | .h2f h => Sys2Proof.Machine.execH2f h s
  | .f2h f => Sys2Proof.Machine.execF2h f s
  | .h2d h => Sys2Proof.Machine.execH2d h s
  | .d2h d => Sys2Proof.Machine.execD2h d s
  | .iszero h => Sys2Proof.Machine.execIszero h s
  | .isnan h => Sys2Proof.Machine.execIsnan h s
  | .isinf h => Sys2Proof.Machine.execIsinf h s
  | .isfinite h => Sys2Proof.Machine.execIsfinite h s
  | .signbit h => Sys2Proof.Machine.execSignbit h s
  | .neg h => Sys2Proof.Machine.execNeg h s
  | .abs h => Sys2Proof.Machine.execAbs h s
  | .copysign x y => Sys2Proof.Machine.execCopysign x y s
  | .nextafter x y => Sys2Proof.Machine.execNextafter x y s
  | .eq x y => Sys2Proof.Machine.execEq x y s
  | .ne x y => Sys2Proof.Machine.execNe x y s
  | .lt x y => Sys2Proof.Machine.execLt x y s
  | .le x y => Sys2Proof.Machine.execLe x y s
  | .gt x y => Sys2Proof.Machine.execGt x y s
  | .ge x y => Sys2Proof.Machine.execGe x y s
  | .eqNonan x y => Sys2Proof.Machine.execEqNonan x y s
  | .neNonan x y => Sys2Proof.Machine.execNeNonan x y s
  | .ltNonan x y => Sys2Proof.Machine.execLtNonan x y s
  | .leNonan x y => Sys2Proof.Machine.execLeNonan x y s
  | .gtNonan x y => Sys2Proof.Machine.execGtNonan x y s
  | .geNonan x y => Sys2Proof.Machine.execGeNonan x y s

end Sys2Proof.Machine
end

