-- ==== Sys2Proof/Machine/Ports.lean ====
section
/-! DEFINITION. The block as the function of its inputs that spec/10_state.md R20 and spec/00_scope.md R9 make it, and the host's
operation: whatever is put on the input ports, `r` follows (R31). -/

namespace Sys2Proof.Machine

/-- The operation whose code is on `op`, performed on the operands beside it (spec/20_memory.md R47); a reserved code is refused
(spec/30_encoding.md R57). -/
def State.evaluate (s : State) : Result :=
  match decode s.command with
  | .ok i => exec i s
  | .error (.reservedCode op) => .refused (.reservedOp op)

/-- The ports with a command on the inputs, before the block drives `r`. No operation reads the 0 that stands there. -/
def inputsOf (c : Command) : State where
  op := c.op
  a := c.a
  b := c.b
  r := 0

/-- `exec(op, a, b) = r`, the function of the inputs alone that the block is (R9, R20): no state argument and no state result. For a
reserved code it is the open `RESERVED_OP` (R57). -/
def output (c : Command) : PortR :=
  match (inputsOf c).evaluate with
  | .next t => t.r
  | .fault q => nomatch q
  | .refused _ => Config.reservedResult c.op c.a c.b

/-- The host puts a command on the input ports (spec/70_reset_and_hazards.md R192). The output follows the inputs at once
(R20, R31), and nothing of the ports' earlier values is left. -/
def State.present (_s : State) (c : Command) : State where
  op := c.op
  a := c.a
  b := c.b
  r := output c

end Sys2Proof.Machine
end

