-- ==== Sys2Proof/Machine/Step.lean ====
section
/-! DEFINITION. One step is one transaction (spec/00_scope.md R9): the operation performed is the one whose code is on `op`
(spec/20_memory.md R47). Two outcomes only, a result or a refusal (spec/60_exceptions.md R176). -/

namespace Sys2Proof.Machine

/-- One transaction on the command the input ports carry. -/
def step (s : State) : Host.Outcome State Fault Refusal :=
  s.evaluate

/-- `s` with the instruction of a table word on its input ports, where step reads its next instruction; `r` follows the inputs
(spec/10_state.md R20). There is no program to load: a program is the host's list of transactions. DESIGN CHOICE, safe:
notes/assumptions/3.md and 4.md. -/
def State.withFetchWord (s : State) (_nbits w : Nat) : State :=
  s.present (tableCommand w)

end Sys2Proof.Machine
end

