-- ==== Sys2Proof/Machine/Transactions.lean ====
section
/-! DEFINITION. The host's side: transactions and scripts of transactions (spec/00_scope.md R9; spec/70_reset_and_hazards.md R192;
spec/95_test_vectors.md section 4). -/

namespace Sys2Proof.Machine

/-- One transaction: the host presents `c` and the block answers. -/
def State.transact (s : State) (c : Command) : Host.Outcome State Fault Refusal :=
  step (s.present c)

/-- What the host reads from each transaction of a list, in order: the value of `r`, or nothing where the block refuses. A refused
transaction harms no later one (R192); DESIGN CHOICE: it is read as no result, and the host goes on from the ports as
presented (notes/assumptions/17.md, safe). -/
def State.runScript : State → List Command → List (Option PortR)
  | _, [] => []
  | s, c :: cs =>
    match s.transact c with
    | .next t => some t.r :: t.runScript cs
    | .fault _ => none :: (s.present c).runScript cs
    | .refused _ => none :: (s.present c).runScript cs

end Sys2Proof.Machine
end

