-- ==== Sys2Proof/Machine/Value.lean ====
section
/-! DEFINITION. Class and value of a pattern (spec/40_codec_core.md R79, R80). No rule of the block computes the value; it says what
the rules achieve, and statements use it. -/

namespace Sys2Proof.Machine

/-- The five classes of R79. -/
inductive FpClass where
  | zero
  | subnormal
  | normal
  | infinity
  | nan
  deriving DecidableEq, Repr

/-- R79, with `emax` the all-ones exponent field of the format. -/
def Fields.fpClass (emax : Nat) (F : Fields) : FpClass :=
  if F.E = 0 then (if F.M = 0 then .zero else .subnormal)
  else if F.E = emax then (if F.M = 0 then .infinity else .nan)
  else .normal

/-- The class of a half (R79). -/
def class16 (h : Half) : FpClass := (fields16 h).fpClass 0x1F

/-- The class of a float32 pattern (R79). -/
def class32 (f : F32) : FpClass := (fields32 f).fpClass 0xFF

/-- The class of a float64 pattern (R79). -/
def class64 (d : F64) : FpClass := (fields64 d).fpClass 0x7FF

/-- The extended numbers: the rationals with minus infinity (`⊥`) below and plus infinity (`⊤`) above (R130). Every finite pattern
stands for a rational. -/
abbrev ExtNum := WithBot (WithTop ℚ)

/-- The number a normal, subnormal or zero pattern stands for (R80), `p` the mantissa width. The scale of a subnormal is
PRESUMED by the spec from general knowledge (93_implementation_defined.md G2): notes/assumptions/18.md. -/
def Fields.finiteVal (bias : Int) (p : Nat) (F : Fields) : ℚ :=
  if F.E = 0 then (-1) ^ F.s * 2 ^ (1 - bias) * (F.M / 2 ^ p)
  else (-1) ^ F.s * 2 ^ ((F.E : Int) - bias) * (1 + F.M / 2 ^ p)

/-- R80: the extended number of a pattern; a NaN stands for none. -/
def Fields.val (emax : Nat) (bias : Int) (p : Nat) (F : Fields) : Option ExtNum :=
  if F.E = emax then
    if F.M ≠ 0 then none
    else if F.s = 0 then some ⊤
    else some ⊥
  else some ((F.finiteVal bias p : WithTop ℚ) : ExtNum)

/-- Both patterns stand for numbers, and the numbers are so related. -/
def Related (rel : ExtNum → ExtNum → Prop) (u v : Option ExtNum) : Prop :=
  ∃ a b, u = some a ∧ v = some b ∧ rel a b

/-- The value of a half (R80). -/
def val16 (h : Half) : Option ExtNum := (fields16 h).val 0x1F bias16 10

/-- The value of a float32 pattern (R80). -/
def val32 (f : F32) : Option ExtNum := (fields32 f).val 0xFF bias32 23

/-- The value of a float64 pattern (R80). -/
def val64 (d : F64) : Option ExtNum := (fields64 d).val 0x7FF bias64 52

end Sys2Proof.Machine
end

