-- ==== Sys2Proof/Safety.lean ====
section
/-! DEFINITION. What a host owes the block, and what the block's ports satisfy after a transaction: the terms the statements use. -/

namespace Sys2Proof.Machine

/-- The no-NaN contract of one operation (spec/70_reset_and_hazards.md R196): its operands are not NaN where it is a no-NaN
comparison, nothing otherwise. -/
def contractHolds : Instr → Bool
  | .eqNonan x y | .neNonan x y | .ltNonan x y | .leNonan x y | .gtNonan x y | .geNonan x y => !isNaN16 x && !isNaN16 y
  | .h2f _ | .f2h _ | .h2d _ | .d2h _ => true
  | .iszero _ | .isnan _ | .isinf _ | .isfinite _ | .signbit _ => true
  | .neg _ | .abs _ | .copysign _ _ | .nextafter _ _ => true
  | .eq _ _ | .ne _ _ | .lt _ _ | .le _ _ | .gt _ _ | .ge _ _ => true

/-- The two things a host should not do are not done (R192): the code is not reserved, and the contract holds. -/
def safeCommand (c : Command) : Bool :=
  match decode c with
  | .ok i => contractHolds i
  | .error _ => false

/-- A safe run: every transaction of the host's list is safe. -/
def safeScript (cs : List Command) : Bool := cs.all safeCommand

/-- The output port carries the output for the command on the input ports (spec/10_state.md R20; R31: `r = exec(op, a, b)` for whatever
is on the inputs). -/
def State.Settled (s : State) : Prop :=
  s.r = output s.command

/-- The bits of `r` above the result type's width are 0 (spec/10_state.md R25). -/
def State.ResultPlaced (s : State) : Prop :=
  ∀ i, decode s.command = .ok i → s.r.toNat < 2 ^ i.resultType.width

/-- The invariant of the ports. -/
def State.Inv (s : State) : Prop := s.Settled ∧ s.ResultPlaced

/-- The states the ports can be in: as powered, after the host has presented a command, after a transaction. -/
inductive Reachable : State → Prop where
  | powered : Reachable State.reset
  | presented {s : State} (c : Command) : Reachable s → Reachable (s.present c)
  | stepped {s t : State} : Reachable s → step s = .next t → Reachable t

end Sys2Proof.Machine
end

