-- ==== Sys2Proof/Certificates/Slice0/Obligations.lean ====
section
/-! DEFINITION. The statements for the provers, from the rules of spec/. In every statement about an operation the next state is
written out as the state before with a new `r`, so it says both that the operation completes and what it leaves as it was. -/

open Sys2Proof Sys2Proof.Machine

/-! ### The machine -/

/-- A step performs the operation whose code is on `op` (20_memory.md R47), on the operands its format reads (30_encoding.md R50), and
nothing around it; the same for a table word placed by `withFetchWord`, which puts on the input ports just what the word stands for
(the numbering of table words is the model's choice, notes/assumptions/4.md). -/
def Obligations.StepRunsTheDecodedOperation : Prop :=
  ∀ s : State,
    (∀ i, decode s.command = .ok i → step s = exec i s) ∧
    (∀ nbits w i, decodeTableWord nbits w = some i →
      step (s.withFetchWord nbits w) = exec i (s.withFetchWord nbits w) ∧
        (s.withFetchWord nbits w).command = tableCommand w)

/-- Two outcomes only (60_exceptions.md R176): a result for each of the 25 codes, whatever the operands, and a refusal for each of the
seven reserved codes (30_encoding.md R57, the spec's own decision D6). -/
def Obligations.StepAnswersOrRefusesByCode : Prop :=
  ∀ s : State,
    (s.op ∉ ([0x0D, 0x0E, 0x0F, 0x16, 0x17, 0x1E, 0x1F] : List OpCode) → ∃ t, step s = .next t) ∧
    (s.op ∈ ([0x0D, 0x0E, 0x0F, 0x16, 0x17, 0x1E, 0x1F] : List OpCode) → step s = .refused (.reservedOp s.op))

/-- R20: a transaction reads only `op`, `a`, `b` and writes only `r`; with equal inputs, equal results. -/
def Obligations.TransactionsReadInputsAndWriteOnlyR : Prop :=
  ∀ s s' : State, s.command = s'.command →
    (∀ t, step s = .next t → t = { s with r := t.r } ∧ step s' = .next { s' with r := t.r }) ∧
    (∀ q, step s = .refused q → step s' = .refused q) ∧
    (∀ q, step s ≠ .fault q)

/-- R170: no operation raises anything, for any operand: each completes, with one result whatever the state, which fits its result
type, and leaves all else as it was. -/
def Obligations.EveryOperationCompletes : Prop :=
  ∀ i : Instr, ∃ v : PortR, v.toNat < 2 ^ i.resultType.width ∧ ∀ s : State, exec i s = .next { s with r := v }

/-- R43: every transaction is idempotent and may be repeated, any number of times, without any change. -/
def Obligations.RepeatedTransactionsChangeNothing : Prop :=
  ∀ (s t : State) (k : Nat), step s = .next t → Sys2Proof.core.run (k + 1) s = .next t

/-- The ports before the host has driven anything satisfy the invariant: `r = exec(op, a, b)` (10_state.md R31). The port values at
reset are the model's choice, notes/assumptions/2.md. -/
def Obligations.ResetPortsSatisfyTheInvariant : Prop :=
  State.reset.Inv ∧ step State.reset = .next State.reset

/-- The invariant of the ports, `r` is the output for the command on the inputs (R20, R31) and its bits above the result type are 0 (R25):
every step, from any state, leaves it true; so every step keeps it. -/
def Obligations.EveryStepEstablishesThePortInvariant : Prop :=
  ∀ s t : State, step s = .next t → t.Inv

/-- R45: any interleaving of transactions, on one instance or on many, gives each the same result: a list of transactions permuted,
started in another state or handed over half-way to another instance gives the same pairs of transaction and result. The model's
choices: a refused transaction reads as no result and the host goes on (notes/assumptions/17.md), and a second instance is another
State (notes/assumptions/13.md). -/
def Obligations.ScriptResultsDoNotDependOnOrderOrInstance : Prop :=
  (∀ (s s' : State) (cs cs' : List Command), cs.Perm cs' →
    (cs.zip (s.runScript cs)).Perm (cs'.zip (s'.runScript cs'))) ∧
  (∀ (s s' : State) (cs cs' : List Command), s.runScript (cs ++ cs') = s.runScript cs ++ s'.runScript cs')

/-- R192, R196: a host that issues no reserved code and keeps the no-NaN contract reads a result from every transaction, and the
result of each no-NaN comparison is that of the general comparison. -/
def Obligations.SafeScriptsAreAnswered : Prop :=
  ∀ (s : State) (cs : List Command), safeScript cs = true →
    s.runScript cs = s.runScript (cs.map fun c => if c.op.toNat ≥ 0x18 then { c with op := c.op - 8 } else c) ∧
    (s.runScript cs).length = cs.length ∧ ∀ o ∈ s.runScript cs, o.isSome = true

/-! ### Encoding -/

/-- Decoding an encoded operation gives it back, with every operand at every value, on the ports and on the command word of R50. -/
def Obligations.DecodeOfEncodeIsIdentity : Prop :=
  ∀ i : Instr, decode (encode i) = .ok i ∧ decodeWord (encodeWord i) = .ok i

/-- Encoding a decoded command gives back the command, zeros on the bits its format does not read: each command has one meaning. -/
def Obligations.EncodeOfDecodeKeepsTheBitsRead : Prop :=
  ∀ (c : Command) (i : Instr), decode c = .ok i → encode i = c.readBits i.format

/-- The 85-bit word of R50 holds the three ports at their field positions and nothing else. -/
def Obligations.CommandWordHoldsThePorts : Prop :=
  (∀ c : Command, Command.ofWord c.toWord = c ∧
    c.toWord.toNat = c.op.toNat * 2 ^ 80 + c.a.toNat * 2 ^ 16 + c.b.toNat) ∧
  (∀ w : CommandWord, (Command.ofWord w).toWord = w)

/-- Changing the input bits an operation does not read does not change `r` (10_state.md R25, the spec's own decision D4;
95_test_vectors.md Q13). -/
def Obligations.UnreadBitsDoNotChangeTheResult : Prop :=
  ∀ (s : State) (c c' : Command) (i : Instr), decode c = .ok i → c'.readBits i.format = c.readBits i.format →
    ∃ v, s.transact c = .next { s.present c with r := v } ∧ s.transact c' = .next { s.present c' with r := v } ∧
      (s.present c).r = v ∧ (s.present c').r = v

/-- A code is reserved exactly when it is the code of no operation (R53, R57). -/
def Obligations.CodesAreReservedOrNameAnOperation : Prop :=
  ∀ op : OpCode, isReserved op = false ↔ ∃ i : Instr, (encode i).op = op

/-- Command words of the spec's scripts P1 to P5 (95_test_vectors.md section 4) decode to the transactions they stand beside. -/
def Obligations.ScriptCommandWordsDecode : Prop :=
  decodeWord 0x01000000003F8000000000 = .ok (.f2h 0x3F800000) ∧
  decodeWord 0x0C0000000000003C007C00 = .ok (.nextafter 0x3C00 0x7C00) ∧
  decodeWord 0x033FF33333333333330000 = .ok (.d2h 0x3FF3333333333333) ∧
  decodeWord 0x1D0000000000003C003C01 = .ok (.geNonan 0x3C00 0x3C01) ∧
  decodeWord 0x0A00000000000080000000 = .ok (.abs 0x8000) ∧
  decodeWord 0x070000000000007C000000 = .ok (.isfinite 0x7C00)

/-! ### The codec core -/

/-- R74, R75: pack is the inverse of split, for the half and the float32 pattern. -/
def Obligations.PackAndSplitAreInverse : Prop :=
  (∀ h : Half, pack16 (fields16 h).s (fields16 h).E (fields16 h).M = h) ∧
  (∀ s E M, s ≤ 1 → E ≤ 31 → M ≤ 1023 → fields16 (pack16 s E M) = ⟨s, E, M⟩) ∧
  (∀ f : F32, pack32 (fields32 f).s (fields32 f).E (fields32 f).M = f) ∧
  (∀ s E M, s ≤ 1 → E ≤ 255 → M ≤ 2 ^ 23 - 1 → fields32 (pack32 s E M) = ⟨s, E, M⟩)

/-- R76: the same for the float64 pattern, whose bit positions the spec derives (R70: notes/assumptions/15.md). -/
def Obligations.PackAndSplit64AreInverse : Prop :=
  (∀ d : F64, pack64 (fields64 d).s (fields64 d).E (fields64 d).M = d) ∧
  (∀ s E M, s ≤ 1 → E ≤ 2047 → M ≤ 2 ^ 52 - 1 → fields64 (pack64 s E M) = ⟨s, E, M⟩)

/-! ### Conversion -/

/-- R90: H2F by its branches. In the subnormal branch `k` is the number of iterations of the loop `while m[10] == 0`. That the working
exponent starts at 1 is the spec's derivation R92 (notes/assumptions/11.md), that a NaN keeps its sign its decision D8
(notes/assumptions/8.md). -/
def Obligations.H2fFollowsItsBranches : Prop :=
  ∀ (h : Half) (s : State), ∃ f : F32, exec (.h2f h) s = .next { s with r := f.setWidth 64 } ∧
    ((fields16 h).E = 0x1F → (fields16 h).M = 0 → f = pack32 (fields16 h).s 0xFF 0) ∧
    ((fields16 h).E = 0x1F → (fields16 h).M ≠ 0 → f = pack32 (fields16 h).s 0xFF ((fields16 h).M <<< 13)) ∧
    ((fields16 h).E = 0 → (fields16 h).M = 0 → f = pack32 (fields16 h).s 0 0) ∧
    ((fields16 h).E = 0 → (fields16 h).M ≠ 0 → ∃ k, 1 ≤ k ∧ k ≤ 10 ∧ ((fields16 h).M <<< k).testBit 10 = true ∧
      (∀ j, j < k → ((fields16 h).M <<< j).testBit 10 = false) ∧
      f = pack32 (fields16 h).s (1 - k + 112 : Int).toNat ((((fields16 h).M <<< k) &&& 0x3FF) <<< 13)) ∧
    ((fields16 h).E ≠ 0x1F → (fields16 h).E ≠ 0 →
      f = pack32 (fields16 h).s ((fields16 h).E + 112) ((fields16 h).M <<< 13))

/-- R96 and the corner cases of R99: H2F and H2D are exact, keep the sign, zero and NaN included, and never give a subnormal. The scale
of a subnormal's value is the spec's general knowledge (notes/assumptions/18.md), that a NaN keeps its sign its decision D8
(notes/assumptions/8.md), the inner widening its decision D9 (notes/assumptions/9.md). -/
def Obligations.WideningIsExact : Prop :=
  ∀ (h : Half) (s : State), ∃ (f : F32) (d : F64),
    exec (.h2f h) s = .next { s with r := f.setWidth 64 } ∧ exec (.h2d h) s = .next { s with r := d } ∧
    val32 f = val16 h ∧ val64 d = val16 h ∧ f.msb = h.msb ∧ d.msb = h.msb ∧
    class32 f ≠ .subnormal ∧ class64 d ≠ .subnormal

/-- R100: the closed form of H2D, in which no float32 pattern occurs. -/
def Obligations.H2dEqualsItsClosedForm : Prop :=
  ∀ (h : Half) (s : State), ∃ d : F64, exec (.h2d h) s = .next { s with r := d } ∧
    ((fields16 h).E = 0x1F → d = pack64 (fields16 h).s 0x7FF ((fields16 h).M <<< 42)) ∧
    ((fields16 h).E = 0 → (fields16 h).M = 0 → d = pack64 (fields16 h).s 0 0) ∧
    (∀ p, (fields16 h).E = 0 → 2 ^ p ≤ (fields16 h).M → (fields16 h).M < 2 ^ (p + 1) →
      d = pack64 (fields16 h).s (1009 - (10 - p)) ((((fields16 h).M <<< (10 - p)) &&& 0x3FF) <<< 42)) ∧
    ((fields16 h).E ≠ 0x1F → (fields16 h).E ≠ 0 →
      d = pack64 (fields16 h).s ((fields16 h).E + 1008) ((fields16 h).M <<< 42))

/-- R93 as arithmetic on the fields. Testing the unrebiased exponent field for NaN and infinity is the spec's own decision D7, the
mantissa 1 of a NaN whose shift leaves 0, and the kept sign of a NaN, its decision D8 (notes/assumptions/7.md and 8.md). -/
def Obligations.F2hFollowsItsBranches : Prop :=
  ∀ (f : F32) (s : State), ∃ h : Half, exec (.f2h f) s = .next { s with r := h.setWidth 64 } ∧
    ((fields32 f).E = 255 → (fields32 f).M = 0 → h.toNat = (fields32 f).s * 32768 + 31744) ∧
    ((fields32 f).E = 255 → (fields32 f).M ≠ 0 → (fields32 f).M < 8192 → h.toNat = (fields32 f).s * 32768 + 31745) ∧
    ((fields32 f).E = 255 → 8192 ≤ (fields32 f).M → h.toNat = (fields32 f).s * 32768 + 31744 + (fields32 f).M / 8192) ∧
    (143 ≤ (fields32 f).E → (fields32 f).E ≤ 254 → h.toNat = (fields32 f).s * 32768 + 31744) ∧
    (113 ≤ (fields32 f).E → (fields32 f).E ≤ 142 →
      h.toNat = (fields32 f).s * 32768 + ((fields32 f).E - 112) * 1024 + (fields32 f).M / 8192) ∧
    (102 ≤ (fields32 f).E → (fields32 f).E ≤ 112 →
      h.toNat = (fields32 f).s * 32768 + (8388608 + (fields32 f).M) / 2 ^ (126 - (fields32 f).E)) ∧
    ((fields32 f).E ≤ 101 → h.toNat = (fields32 f).s * 32768)

/-- R94: F2H truncates. A finite source keeps its sign; below 2^-24 in magnitude it gives a zero, from there below 65536 the half of
largest magnitude not exceeding it, from 65536 on an infinity. Infinities and NaN are F2hFollowsItsBranches' matter. The scale of a
subnormal's value is the spec's general knowledge (notes/assumptions/18.md). -/
def Obligations.F2hTruncatesTheNumber : Prop :=
  ∀ (f : F32) (s : State), (fields32 f).E ≠ 255 →
    ∃ h : Half, exec (.f2h f) s = .next { s with r := h.setWidth 64 } ∧ h.msb = f.msb ∧
      (|(fields32 f).finiteVal bias32 23| < 2 ^ (-24 : Int) → class16 h = .zero) ∧
      (2 ^ (-24 : Int) ≤ |(fields32 f).finiteVal bias32 23| → |(fields32 f).finiteVal bias32 23| < 65536 →
        (fields16 h).E ≠ 31 ∧ |(fields16 h).finiteVal bias16 10| ≤ |(fields32 f).finiteVal bias32 23| ∧
        ∀ g : Half, (fields16 g).E ≠ 31 → |(fields16 g).finiteVal bias16 10| ≤ |(fields32 f).finiteVal bias32 23| →
          |(fields16 g).finiteVal bias16 10| ≤ |(fields16 h).finiteVal bias16 10|) ∧
      (65536 ≤ |(fields32 f).finiteVal bias32 23| → class16 h = .infinity)

/-- R103: D2H, which goes through a float32 pattern, equals the direct truncating conversion for every 64-bit pattern. That the
inner step truncates is the spec's own decision D10, the NaN fix-up its decision D8 (notes/assumptions/8.md and 9.md). -/
def Obligations.D2hEqualsTheDirectConversion : Prop :=
  ∀ (d : F64) (s : State), ∃ h : Half, exec (.d2h d) s = .next { s with r := h.setWidth 64 } ∧
    ((fields64 d).E = 2047 → (fields64 d).M = 0 → h.toNat = (fields64 d).s * 32768 + 31744) ∧
    ((fields64 d).E = 2047 → (fields64 d).M ≠ 0 → (fields64 d).M < 2 ^ 42 → h.toNat = (fields64 d).s * 32768 + 31745) ∧
    ((fields64 d).E = 2047 → 2 ^ 42 ≤ (fields64 d).M →
      h.toNat = (fields64 d).s * 32768 + 31744 + (fields64 d).M / 2 ^ 42) ∧
    (1039 ≤ (fields64 d).E → (fields64 d).E ≤ 2046 → h.toNat = (fields64 d).s * 32768 + 31744) ∧
    (1009 ≤ (fields64 d).E → (fields64 d).E ≤ 1038 →
      h.toNat = (fields64 d).s * 32768 + ((fields64 d).E - 1008) * 1024 + (fields64 d).M / 2 ^ 42) ∧
    (998 ≤ (fields64 d).E → (fields64 d).E ≤ 1008 →
      h.toNat = (fields64 d).s * 32768 + (2 ^ 52 + (fields64 d).M) / 2 ^ (1051 - (fields64 d).E)) ∧
    ((fields64 d).E ≤ 997 → h.toNat = (fields64 d).s * 32768)

/-- R97, and Q2 for the float64 pattern: widening a half and narrowing it again gives the half, bit for bit, NaN included (the spec
derives the NaN case from its decision D8, notes/assumptions/8.md). -/
def Obligations.WideningThenNarrowingIsIdentity : Prop :=
  ∀ (h : Half) (s : State),
    (∃ f : F32, exec (.h2f h) s = .next { s with r := f.setWidth 64 } ∧
      exec (.f2h f) s = .next { s with r := h.setWidth 64 }) ∧
    (∃ d : F64, exec (.h2d h) s = .next { s with r := d } ∧ exec (.d2h d) s = .next { s with r := h.setWidth 64 })

/-- R104: each conversion maps a zero to a zero, an infinity to an infinity and a NaN to a NaN, of the same sign (for a NaN the
sign is the spec's own decision D8, notes/assumptions/8.md); half subnormals widen to normals, and the other subnormals narrow to zeros. -/
def Obligations.ConversionsKeepClassAndSign : Prop :=
  ∀ s : State,
    (∀ h : Half, ∃ (f : F32) (d : F64),
      exec (.h2f h) s = .next { s with r := f.setWidth 64 } ∧ exec (.h2d h) s = .next { s with r := d } ∧
      f.msb = h.msb ∧ d.msb = h.msb ∧ class64 d = class32 f ∧
      class32 f = if class16 h = .subnormal then .normal else class16 h) ∧
    (∀ f : F32, ∃ h : Half, exec (.f2h f) s = .next { s with r := h.setWidth 64 } ∧ h.msb = f.msb ∧
      (class32 f = .zero ∨ class32 f = .subnormal → class16 h = .zero) ∧ (class16 h = .nan ↔ class32 f = .nan) ∧
      (class32 f = .infinity → class16 h = .infinity)) ∧
    (∀ d : F64, ∃ h : Half, exec (.d2h d) s = .next { s with r := h.setWidth 64 } ∧ h.msb = d.msb ∧
      (class64 d = .zero ∨ class64 d = .subnormal → class16 h = .zero) ∧ (class16 h = .nan ↔ class64 d = .nan) ∧
      (class64 d = .infinity → class16 h = .infinity))

/-- Q5: F2H keeps the order of numbers. The scale of a subnormal's value is the spec's general knowledge (notes/assumptions/18.md). -/
def Obligations.F2hIsMonotone : Prop :=
  ∀ (f g : F32) (s : State), Related (· ≤ ·) (val32 f) (val32 g) →
    ∃ h k : Half, exec (.f2h f) s = .next { s with r := h.setWidth 64 } ∧
      exec (.f2h g) s = .next { s with r := k.setWidth 64 } ∧ Related (· ≤ ·) (val16 h) (val16 k)

/-- R98: the inner widening from float32 to float64 loses nothing, float32 subnormals included (the spec's own decision D9:
notes/assumptions/9.md; the scale of a subnormal's value is its general knowledge, notes/assumptions/18.md). -/
def Obligations.InnerWideningIsExact : Prop :=
  ∀ f : F32, val64 (widen f) = val32 f ∧ (widen f).msb = f.msb

/-! ### Classification -/

/-- R120 to R124: each predicate answers 1 for exactly the patterns its rule lists, and 0 for every other. -/
def Obligations.PredicatesAnswerForTheirPatterns : Prop :=
  ∀ (h : Half) (s : State),
    exec (.iszero h) s = .next { s with r := if h = 0x0000 ∨ h = 0x8000 then 1 else 0 } ∧
    exec (.isnan h) s = .next { s with
      r := if (0x7C01 ≤ h.toNat ∧ h.toNat ≤ 0x7FFF) ∨ (0xFC01 ≤ h.toNat ∧ h.toNat ≤ 0xFFFF) then 1 else 0 } ∧
    exec (.isinf h) s = .next { s with r := if h = 0x7C00 ∨ h = 0xFC00 then 1 else 0 } ∧
    exec (.isfinite h) s = .next { s with
      r := if h.toNat ≤ 0x7BFF ∨ (0x8000 ≤ h.toNat ∧ h.toNat ≤ 0xFBFF) then 1 else 0 } ∧
    exec (.signbit h) s = .next { s with r := if 0x8000 ≤ h.toNat then 1 else 0 }

/-- R79, R125: the five classes are told by the predicates, one for each half. -/
def Obligations.EachHalfHasOneClass : Prop :=
  ∀ h : Half,
    (isZero16 h = true ↔ class16 h = .zero) ∧ (isSubnormal16 h = true ↔ class16 h = .subnormal) ∧
    (isNormal16 h = true ↔ class16 h = .normal) ∧ (isInf16 h = true ↔ class16 h = .infinity) ∧
    (isNaN16 h = true ↔ class16 h = .nan)

/-- R126, R153: the predicates other than SIGNBIT give one answer for `h`, NEG `h` and ABS `h`; NEG flips the answer of SIGNBIT, and ABS
makes it 0. -/
def Obligations.PredicatesUnderNegAndAbs : Prop :=
  ∀ (h n m : Half) (s : State), exec (.neg h) s = .next { s with r := n.setWidth 64 } →
    exec (.abs h) s = .next { s with r := m.setWidth 64 } →
      (exec (.iszero n) s = exec (.iszero h) s ∧ exec (.iszero m) s = exec (.iszero h) s) ∧
      (exec (.isnan n) s = exec (.isnan h) s ∧ exec (.isnan m) s = exec (.isnan h) s) ∧
      (exec (.isinf n) s = exec (.isinf h) s ∧ exec (.isinf m) s = exec (.isinf h) s) ∧
      (exec (.isfinite n) s = exec (.isfinite h) s ∧ exec (.isfinite m) s = exec (.isfinite h) s) ∧
      exec (.signbit n) s = .next { s with r := if h.msb then 0 else 1 } ∧
      exec (.signbit m) s = .next { s with r := 0 }

/-! ### Sign operations -/

/-- R150, R151, R152: NEG flips bit 15, ABS clears it, COPYSIGN takes it from `y`; bits 14 to 0 are those of the first operand. -/
def Obligations.SignOperationsChangeOnlyBit15 : Prop :=
  ∀ (x y : Half) (s : State),
    (∃ v : Half, exec (.neg x) s = .next { s with r := v.setWidth 64 } ∧ v.getLsbD 15 = !x.getLsbD 15 ∧
      ∀ j, j < 15 → v.getLsbD j = x.getLsbD j) ∧
    (∃ v : Half, exec (.abs x) s = .next { s with r := v.setWidth 64 } ∧ v.getLsbD 15 = false ∧
      ∀ j, j < 15 → v.getLsbD j = x.getLsbD j) ∧
    (∃ v : Half, exec (.copysign x y) s = .next { s with r := v.setWidth 64 } ∧ v.getLsbD 15 = y.getLsbD 15 ∧
      ∀ j, j < 15 → v.getLsbD j = x.getLsbD j)

/-- R153 and Q9: the relations among NEG, ABS and COPYSIGN. -/
def Obligations.SignOperationRelations : Prop :=
  ∀ (h n m : Half) (s : State), exec (.neg h) s = .next { s with r := n.setWidth 64 } →
    exec (.abs h) s = .next { s with r := m.setWidth 64 } →
      exec (.neg n) s = .next { s with r := h.setWidth 64 } ∧ exec (.abs m) s = exec (.abs h) s ∧
      exec (.abs n) s = exec (.abs h) s ∧ exec (.abs h) s = exec (.copysign h 0x0000) s ∧
      exec (.neg h) s = exec (.copysign h (h ^^^ 0x8000)) s ∧ exec (.copysign h h) s = .next { s with r := h.setWidth 64 }

/-! ### Comparison -/

/-- R132 to R137: the six comparisons order the numbers the halves stand for; with a NaN operand each answers 0, but NE answers 1.
That the halves are ordered as the numbers is general knowledge in the spec (G3) and computed on its derived keys (R131, R138:
notes/assumptions/12.md); the scale of a subnormal's value is general knowledge too (G2: notes/assumptions/18.md). -/
def Obligations.ComparisonsOrderTheNumbers : Prop :=
  ∀ (x y : Half) (s : State),
    (∃ v : Bool, exec (.eq x y) s = .next { s with r := if v then 1 else 0 } ∧
      (v = true ↔ Related (· = ·) (val16 x) (val16 y))) ∧
    (∃ v : Bool, exec (.ne x y) s = .next { s with r := if v then 1 else 0 } ∧
      (v = true ↔ ¬ Related (· = ·) (val16 x) (val16 y))) ∧
    (∃ v : Bool, exec (.lt x y) s = .next { s with r := if v then 1 else 0 } ∧
      (v = true ↔ Related (· < ·) (val16 x) (val16 y))) ∧
    (∃ v : Bool, exec (.le x y) s = .next { s with r := if v then 1 else 0 } ∧
      (v = true ↔ Related (· ≤ ·) (val16 x) (val16 y))) ∧
    (∃ v : Bool, exec (.gt x y) s = .next { s with r := if v then 1 else 0 } ∧
      (v = true ↔ Related (· > ·) (val16 x) (val16 y))) ∧
    (∃ v : Bool, exec (.ge x y) s = .next { s with r := if v then 1 else 0 } ∧
      (v = true ↔ Related (· ≥ ·) (val16 x) (val16 y)))

/-- R138, S12: LT, computed on integer keys, is the float32 order of the operands converted by H2F. The keys are the spec's
derivation (notes/assumptions/12.md), the scale of a subnormal's value its general knowledge (notes/assumptions/18.md). -/
def Obligations.LtIsTheFloat32OrderOfH2f : Prop :=
  ∀ (x y : Half) (s : State), ∃ f g : F32,
    exec (.h2f x) s = .next { s with r := f.setWidth 64 } ∧ exec (.h2f y) s = .next { s with r := g.setWidth 64 } ∧
    (exec (.lt x y) s = .next { s with r := 1 } ↔ Related (· < ·) (val32 f) (val32 g)) ∧
    (exec (.lt x y) s = .next { s with r := 0 } ↔ ¬ Related (· < ·) (val32 f) (val32 g))

/-- R139, Q7: for every pair, NaN included, NE is the negation of EQ, GT and GE are LT and LE with the operands exchanged, LE is LT or EQ;
and exactly one of LT, EQ, GT and "an operand is a NaN" holds. -/
def Obligations.ComparisonRelations : Prop :=
  ∀ (x y : Half) (s : State), ∃ lt eq gt : Bool,
    exec (.lt x y) s = .next { s with r := if lt then 1 else 0 } ∧
    exec (.eq x y) s = .next { s with r := if eq then 1 else 0 } ∧
    exec (.gt x y) s = .next { s with r := if gt then 1 else 0 } ∧
    exec (.ne x y) s = .next { s with r := if eq then 0 else 1 } ∧
    exec (.le x y) s = .next { s with r := if lt || eq then 1 else 0 } ∧
    exec (.ge x y) s = .next { s with r := if gt || eq then 1 else 0 } ∧
    exec (.gt x y) s = exec (.lt y x) s ∧ exec (.ge x y) s = exec (.le y x) s ∧ exec (.eq x y) s = exec (.eq y x) s ∧
    lt.toNat + eq.toNat + gt.toNat + (isNaN16 x || isNaN16 y).toNat = 1

/-- R141 to R146: with no NaN operand a no-NaN comparison is the general one; with a NaN operand it still completes, with 0 or 1 on `r`,
and nothing says which (the free value of notes/assumptions/5.md). That all six exist is the spec's own decision D11. -/
def Obligations.NonanComparisonsMeetTheirContract : Prop :=
  ∀ (x y : Half) (s : State),
    ((∃ v : Bool, exec (.eqNonan x y) s = .next { s with r := if v then 1 else 0 }) ∧
      (isNaN16 x = false → isNaN16 y = false → exec (.eqNonan x y) s = exec (.eq x y) s)) ∧
    ((∃ v : Bool, exec (.neNonan x y) s = .next { s with r := if v then 1 else 0 }) ∧
      (isNaN16 x = false → isNaN16 y = false → exec (.neNonan x y) s = exec (.ne x y) s)) ∧
    ((∃ v : Bool, exec (.ltNonan x y) s = .next { s with r := if v then 1 else 0 }) ∧
      (isNaN16 x = false → isNaN16 y = false → exec (.ltNonan x y) s = exec (.lt x y) s)) ∧
    ((∃ v : Bool, exec (.leNonan x y) s = .next { s with r := if v then 1 else 0 }) ∧
      (isNaN16 x = false → isNaN16 y = false → exec (.leNonan x y) s = exec (.le x y) s)) ∧
    ((∃ v : Bool, exec (.gtNonan x y) s = .next { s with r := if v then 1 else 0 }) ∧
      (isNaN16 x = false → isNaN16 y = false → exec (.gtNonan x y) s = exec (.gt x y) s)) ∧
    ((∃ v : Bool, exec (.geNonan x y) s = .next { s with r := if v then 1 else 0 }) ∧
      (isNaN16 x = false → isNaN16 y = false → exec (.geNonan x y) s = exec (.ge x y) s))

/-! ### Stepping -/

/-- R160: for operands that stand for different numbers, NEXTAFTER gives the adjacent representable number from `x` toward `y`: it lies
beyond `x` and not beyond `y`, and no half stands for a number between `x` and it. Equal and NaN operands are NextafterStepsTheKey's matter. The scale of
a subnormal's value is the spec's general knowledge (notes/assumptions/18.md). -/
def Obligations.NextafterIsAdjacent : Prop :=
  ∀ (x y : Half) (s : State) (a b : ExtNum), val16 x = some a → val16 y = some b → a ≠ b →
    ∃ (z : Half) (c : ExtNum), exec (.nextafter x y) s = .next { s with r := z.setWidth 64 } ∧ val16 z = some c ∧
      ((a < c ∧ c ≤ b) ∨ (c < a ∧ b ≤ c)) ∧
      ∀ (w : Half) (e : ExtNum), val16 w = some e → ¬ (a < e ∧ e < c) ∧ ¬ (c < e ∧ e < a)

/-- R160, R161: NEXTAFTER by its cases, in terms of the comparison key. Which NaN is returned is the spec's own decision D13
(notes/assumptions/10.md). -/
def Obligations.NextafterStepsTheKey : Prop :=
  ∀ (x y : Half) (s : State), ∃ z : Half, exec (.nextafter x y) s = .next { s with r := z.setWidth 64 } ∧
    (isNaN16 x = true → z = x) ∧
    (isNaN16 x = false → isNaN16 y = true → z = y) ∧
    (isNaN16 x = false → isNaN16 y = false → key16 x = key16 y → z = y) ∧
    (isNaN16 x = false → isNaN16 y = false → key16 x < key16 y →
      isNaN16 z = false ∧ key16 z = key16 x + 1 ∧ (key16 z = 0 → z.msb = x.msb)) ∧
    (isNaN16 x = false → isNaN16 y = false → key16 y < key16 x →
      isNaN16 z = false ∧ key16 z = key16 x - 1 ∧ (key16 z = 0 → z.msb = x.msb))

/-- S18: NEXTAFTER of a half toward itself is that half, bit for bit (for a NaN by the spec's own decision D13, notes/assumptions/10.md). -/
def Obligations.NextafterTowardItselfIsIdentity : Prop :=
  ∀ (h : Half) (s : State), exec (.nextafter h h) s = .next { s with r := h.setWidth 64 }

/-- Q12: a step toward plus infinity and one back toward minus infinity returns to a number equal to the first. -/
def Obligations.StepUpThenDownReturns : Prop :=
  ∀ (x : Half) (s : State), isFinite16 x = true → ∃ u d : Half,
    exec (.nextafter x 0x7C00) s = .next { s with r := u.setWidth 64 } ∧
    exec (.nextafter u 0xFC00) s = .next { s with r := d.setWidth 64 } ∧
    exec (.eq d x) s = .next { s with r := 1 } ∧ (isZero16 x = false → isZero16 u = false → d = x)

/-! ### The ports at all times -/

/-- R20: every output is, at all times, a function of the values currently on the inputs and of nothing else. In every state the ports
can be in, however it was reached, `r` is `output` of the inputs; so two such states with equal inputs are equal. The port
values at reset are the model's choice (notes/assumptions/2.md), the output for a reserved code a free value (notes/assumptions/19.md). -/
def Obligations.OutputIsAtAllTimesAFunctionOfTheInputs : Prop :=
  (∀ s : State, Reachable s → s.r = output s.command) ∧
  (∀ s s' : State, Reachable s → Reachable s' → s.command = s'.command → s = s')

/-- R31, R192: whatever the host puts on the inputs, from any state, `r = exec(op, a, b)` stands on `r` before any step: exec of the
operation the command decodes to, from any state, gives that `r`, and a step leaves the ports as they are. For a reserved code
nothing says what `r` is (the free value of notes/assumptions/19.md), and the step refuses. -/
def Obligations.PresentedInputsShowTheirResult : Prop :=
  ∀ (s : State) (c : Command),
    (s.present c).command = c ∧ (s.present c).Inv ∧ (∀ s' : State, s'.present c = s.present c) ∧
    (∀ i, decode c = .ok i → (∀ s' : State, exec i s' = .next { s' with r := (s.present c).r }) ∧
      step (s.present c) = .next (s.present c)) ∧
    (isReserved c.op = true → step (s.present c) = .refused (.reservedOp c.op))
end

