-- ==== Sys2Proof/Laws/Codec.lean ====
section
/-! SUPPORT. The codec core as arithmetic: slices as quotients and remainders, field ranges, packed patterns as sums. -/

namespace Sys2Proof.Machine

theorem slice_eq_div_mod (v hi lo : Nat) : slice v hi lo = v / 2 ^ lo % 2 ^ (hi - lo + 1) := by
  rw [slice, Nat.shiftRight_eq_div_pow]

theorem slice_lt (v hi lo : Nat) : slice v hi lo < 2 ^ (hi - lo + 1) :=
  Nat.mod_lt _ (Nat.two_pow_pos _)

theorem fields16_s (h : Half) : (fields16 h).s = h.toNat / 32768 := by
  have := h.isLt
  simp only [fields16, slice_eq_div_mod]; omega

theorem fields16_E (h : Half) : (fields16 h).E = h.toNat / 1024 % 32 := by
  simp only [fields16, slice_eq_div_mod]; rfl

theorem fields16_M (h : Half) : (fields16 h).M = h.toNat % 1024 := by
  simp only [fields16, slice_eq_div_mod]; omega

theorem fields16_s_lt (h : Half) : (fields16 h).s < 2 := slice_lt ..
theorem fields16_E_lt (h : Half) : (fields16 h).E < 32 := slice_lt ..
theorem fields16_M_lt (h : Half) : (fields16 h).M < 1024 := slice_lt ..

theorem fields32_s (f : F32) : (fields32 f).s = f.toNat / 2147483648 := by
  have := f.isLt
  simp only [fields32, slice_eq_div_mod]; omega

theorem fields32_E (f : F32) : (fields32 f).E = f.toNat / 8388608 % 256 := by
  simp only [fields32, slice_eq_div_mod]; rfl

theorem fields32_M (f : F32) : (fields32 f).M = f.toNat % 8388608 := by
  simp only [fields32, slice_eq_div_mod]; omega

theorem fields32_s_lt (f : F32) : (fields32 f).s < 2 := slice_lt ..
theorem fields32_E_lt (f : F32) : (fields32 f).E < 256 := slice_lt ..
theorem fields32_M_lt (f : F32) : (fields32 f).M < 8388608 := slice_lt ..

theorem fields64_s (d : F64) : (fields64 d).s = d.toNat / 9223372036854775808 := by
  have := d.isLt
  simp only [fields64, slice_eq_div_mod]; omega

theorem fields64_E (d : F64) : (fields64 d).E = d.toNat / 4503599627370496 % 2048 := by
  simp only [fields64, slice_eq_div_mod]; rfl

theorem fields64_M (d : F64) : (fields64 d).M = d.toNat % 4503599627370496 := by
  simp only [fields64, slice_eq_div_mod]; omega

theorem fields64_s_lt (d : F64) : (fields64 d).s < 2 := slice_lt ..
theorem fields64_E_lt (d : F64) : (fields64 d).E < 2048 := slice_lt ..
theorem fields64_M_lt (d : F64) : (fields64 d).M < 4503599627370496 := slice_lt ..

/-- Fields that do not overlap are joined by addition. -/
theorem shiftLeft_or_eq_add {x y n : Nat} (h : y < 2 ^ n) : x <<< n ||| y = x * 2 ^ n + y := by
  rw [← Nat.shiftLeft_add_eq_or_of_lt h, Nat.shiftLeft_eq]

/-- The pack of R74 to R76 for any split of the low bits, in range, as a sum. -/
theorem pack_eq_add {s E M p q : Nat} (hE : E < 2 ^ (q - p)) (hM : M < 2 ^ p) (hpq : p ≤ q) :
    (s <<< q) ||| (E <<< p) ||| M = s * 2 ^ q + E * 2 ^ p + M := by
  have hq : 2 ^ q = 2 ^ (q - p) * 2 ^ p := by rw [← Nat.pow_add]; congr 1; omega
  have hlow : E * 2 ^ p + M < 2 ^ q := by
    have : (E + 1) * 2 ^ p ≤ 2 ^ (q - p) * 2 ^ p := Nat.mul_le_mul_right _ hE
    rw [hq]; rw [Nat.add_mul] at this; omega
  rw [Nat.or_assoc, shiftLeft_or_eq_add hM, shiftLeft_or_eq_add hlow, Nat.add_assoc]

theorem pack16_toNat {s E M : Nat} (hs : s < 2) (hE : E < 32) (hM : M < 1024) :
    (pack16 s E M).toNat = s * 32768 + E * 1024 + M := by
  rw [pack16, pack_eq_add (p := 10) (q := 15) hE hM (by decide), BitVec.toNat_ofNat]; omega

theorem pack32_toNat {s E M : Nat} (hs : s < 2) (hE : E < 256) (hM : M < 8388608) :
    (pack32 s E M).toNat = s * 2147483648 + E * 8388608 + M := by
  rw [pack32, pack_eq_add (p := 23) (q := 31) hE hM (by decide), BitVec.toNat_ofNat]; omega

theorem pack64_toNat {s E M : Nat} (hs : s < 2) (hE : E < 2048) (hM : M < 4503599627370496) :
    (pack64 s E M).toNat = s * 9223372036854775808 + E * 4503599627370496 + M := by
  rw [pack64, pack_eq_add (p := 52) (q := 63) hE hM (by decide), BitVec.toNat_ofNat]; omega

/-- The six constants of R77. -/
theorem rebias_16_32 (E : Nat) : rebias E bias16 bias32 = E + 112 := by simp only [rebias, bias16, bias32]; omega
theorem rebias_32_16 (E : Nat) : rebias E bias32 bias16 = E - 112 := by simp only [rebias, bias16, bias32]; omega
theorem rebias_32_64 (E : Nat) : rebias E bias32 bias64 = E + 896 := by simp only [rebias, bias32, bias64]; omega
theorem rebias_64_32 (E : Nat) : rebias E bias64 bias32 = E - 896 := by simp only [rebias, bias32, bias64]; omega
theorem rebias_16_64 (E : Nat) : rebias E bias16 bias64 = E + 1008 := by simp only [rebias, bias16, bias64]; omega
theorem rebias_64_16 (E : Nat) : rebias E bias64 bias16 = E - 1008 := by simp only [rebias, bias16, bias64]; omega

end Sys2Proof.Machine
end

