-- ==== Sys2Proof/Laws/State.lean ====
section
/-! SUPPORT. One lemma per field per update of State, so that no proof unfolds a record update. -/

namespace Sys2Proof.Machine

@[simp] theorem State.present_op (s : State) (c : Command) : (s.present c).op = c.op := rfl
@[simp] theorem State.present_a (s : State) (c : Command) : (s.present c).a = c.a := rfl
@[simp] theorem State.present_b (s : State) (c : Command) : (s.present c).b = c.b := rfl
@[simp] theorem State.present_r (s : State) (c : Command) : (s.present c).r = output c := rfl
@[simp] theorem State.command_present (s : State) (c : Command) : (s.present c).command = c := rfl
@[simp] theorem command_inputsOf (c : Command) : (inputsOf c).command = c := rfl
@[simp] theorem State.present_present (s : State) (c c' : Command) : (s.present c).present c' = s.present c' := rfl

@[simp] theorem State.command_op (s : State) : s.command.op = s.op := rfl
@[simp] theorem State.command_a (s : State) : s.command.a = s.a := rfl
@[simp] theorem State.command_b (s : State) : s.command.b = s.b := rfl

/-- Driving `r` leaves the presented command as it is. -/
@[simp] theorem State.command_setR (s : State) (v : PortR) : ({ s with r := v } : State).command = s.command := rfl

@[simp] theorem State.setR_present (s : State) (v : PortR) (c : Command) :
    ({ s with r := v } : State).present c = s.present c := rfl

/-- Two states with the same command differ at most in `r`. -/
theorem State.eq_setR_of_command_eq {s t : State} (h : s.command = t.command) : t = { s with r := t.r } := by
  cases s; cases t; cases h; rfl

/-- A state is its command and its `r`. -/
theorem State.ext_command_r {s t : State} (h : s.command = t.command) (hr : s.r = t.r) : s = t := by
  cases s; cases t; cases h; cases hr; rfl

@[simp] theorem State.withFetchWord_command (s : State) (n w : Nat) : (s.withFetchWord n w).command = tableCommand w := rfl
@[simp] theorem State.withFetchWord_r (s : State) (n w : Nat) : (s.withFetchWord n w).r = output (tableCommand w) := rfl

end Sys2Proof.Machine
end

