-- ==== Sys2Proof/Laws/Decode.lean ====
section
/-! SUPPORT. Once, everything the decoder can answer, and the bits each format reads. -/

namespace Sys2Proof.Machine

/-- The decoder rejects the reserved codes, and reads an operation of the presented code from every other command. -/
theorem decode_cases (c : Command) :
    (isReserved c.op = true ∧ decode c = .error (.reservedCode c.op)) ∨
    (isReserved c.op = false ∧ ∃ i, decode c = .ok i ∧ i.code = c.op) := by
  obtain ⟨⟨n, hn⟩, a, b⟩ := c
  interval_cases n <;> first | exact .inl ⟨rfl, rfl⟩ | exact .inr ⟨rfl, _, rfl, rfl⟩

theorem step_of_decode_ok {s : State} {i : Instr} (h : decode s.command = .ok i) : step s = exec i s := by
  rw [step, State.evaluate, h]

theorem step_of_decode_error {s : State} {op : OpCode} (h : decode s.command = .error (.reservedCode op)) :
    step s = .refused (.reservedOp op) := by
  rw [step, State.evaluate, h]

/-- The output for a command that decodes is what its operation writes to `r`. -/
theorem output_of_exec {c : Command} {i : Instr} {t : State} (h : decode c = .ok i)
    (hi : exec i (inputsOf c) = .next t) : output c = t.r := by
  rw [output, State.evaluate, command_inputsOf, h]
  simp only [hi]

/-- The output for a reserved code is the open value. -/
theorem output_of_reserved {c : Command} {q : Reject} (h : decode c = .error q) :
    output c = Config.reservedResult c.op c.a c.b := by
  cases q
  rw [output, State.evaluate, command_inputsOf, h]

theorem setWidth_zero_extend (b : PortB) : (b.setWidth 0).setWidth 16 = 0#16 := by
  apply BitVec.eq_of_toNat_eq; simp [Nat.mod_one]

@[simp] theorem readBits_U16 (c : Command) : c.readBits .U16 = ⟨c.op, (halfA c).setWidth 64, 0⟩ := by
  rw [Command.readBits]; exact congrArg _ (setWidth_zero_extend c.b)

@[simp] theorem readBits_U32 (c : Command) : c.readBits .U32 = ⟨c.op, (f32A c).setWidth 64, 0⟩ := by
  rw [Command.readBits]; exact congrArg _ (setWidth_zero_extend c.b)

@[simp] theorem readBits_U64 (c : Command) : c.readBits .U64 = ⟨c.op, f64A c, 0⟩ := by
  rw [Command.readBits]
  simp only [Format.aBits, Format.bBits, setWidth_zero_extend, BitVec.setWidth_eq, f64A]; rfl

@[simp] theorem readBits_B16 (c : Command) : c.readBits .B16 = ⟨c.op, (halfA c).setWidth 64, halfB c⟩ := by
  simp only [Command.readBits, Format.aBits, Format.bBits, BitVec.setWidth_eq, halfA, halfB]

end Sys2Proof.Machine
end

