-- ==== Sys2Proof/Laws/Flags.lean ====
section
/-! SUPPORT. The one-bit conditions as arithmetic on the pattern, and the comparison outcome by cases. -/

namespace Sys2Proof.Machine

theorem and_0x7FFF_toNat (h : Half) : (h &&& 0x7FFF#16).toNat = h.toNat % 32768 := by
  rw [BitVec.toNat_and]; exact Nat.and_two_pow_sub_one_eq_mod h.toNat 15

theorem isNaN16_iff (h : Half) : isNaN16 h = true ↔ 31744 < h.toNat % 32768 := by
  have := h.isLt
  simp only [isNaN16, fields16_E, fields16_M, Bool.and_eq_true, beq_iff_eq, bne_iff_ne]; omega

theorem isInf16_iff (h : Half) : isInf16 h = true ↔ h.toNat % 32768 = 31744 := by
  have := h.isLt
  simp only [isInf16, fields16_E, fields16_M, Bool.and_eq_true, beq_iff_eq]; omega

theorem isZero16_iff (h : Half) : isZero16 h = true ↔ h.toNat % 32768 = 0 := by
  rw [isZero16, beq_iff_eq, ← BitVec.toNat_inj, and_0x7FFF_toNat]; rfl

theorem sign16_iff (h : Half) : sign16 h = true ↔ 32768 ≤ h.toNat := by
  have := h.isLt
  simp only [sign16, fields16_s, beq_iff_eq]; omega

theorem key16_of_sign {h : Half} (hs : sign16 h = true) : key16 h = -((h.toNat % 32768 : Nat) : Int) := by
  rw [key16, if_pos hs, and_0x7FFF_toNat]

theorem key16_of_not_sign {h : Half} (hs : sign16 h = false) : key16 h = ((h.toNat % 32768 : Nat) : Int) := by
  rw [key16, if_neg (by simp [hs]), and_0x7FFF_toNat]

/-- Every outcome of a comparison, with what it says of the operands. -/
theorem cmp16_cases (x y : Half) :
    ((isNaN16 x = true ∨ isNaN16 y = true) ∧ cmp16 x y = .unordered) ∨
    (isNaN16 x = false ∧ isNaN16 y = false ∧
      ((key16 x < key16 y ∧ cmp16 x y = .less) ∨ (key16 x = key16 y ∧ cmp16 x y = .equal) ∨
        (key16 y < key16 x ∧ cmp16 x y = .greater))) := by
  unfold cmp16
  cases hx : isNaN16 x <;> cases hy : isNaN16 y
  case false.false =>
    rcases Int.lt_trichotomy (key16 x) (key16 y) with h | h | h
    · exact .inr ⟨rfl, rfl, .inl ⟨h, by simp [h]⟩⟩
    · exact .inr ⟨rfl, rfl, .inr (.inl ⟨h, by simp [h]⟩)⟩
    · exact .inr ⟨rfl, rfl, .inr (.inr ⟨h, by simp [Int.not_lt.2 (Int.le_of_lt h), Int.ne_of_gt h]⟩)⟩
  all_goals simp

end Sys2Proof.Machine
end

