-- ==== Sys2Proof/Laws/Ops.lean ====
section
/-! SUPPORT. For each shared operation, once, everything it can do. -/

namespace Sys2Proof.Machine

/-- A `drive` always answers, and changes `r` alone. -/
theorem State.drive_eq_next_iff {s t : State} {v : PortR} : s.drive v = .next t ↔ t = { s with r := v } := by
  simp only [State.drive, Host.Outcome.next.injEq, eq_comm]

theorem placeBool_toNat (v : Bool) : (placeBool v).toNat = v.toNat := by cases v <;> rfl

theorem placeHalf_toNat (h : Half) : (placeHalf h).toNat = h.toNat := by
  have := h.isLt
  rw [placeHalf, BitVec.toNat_setWidth, Nat.mod_eq_of_lt (by omega)]

theorem placeF32_toNat (f : F32) : (placeF32 f).toNat = f.toNat := by
  have := f.isLt
  rw [placeF32, BitVec.toNat_setWidth, Nat.mod_eq_of_lt (by omega)]

theorem placeF64_toNat (d : F64) : (placeF64 d).toNat = d.toNat := rfl

/-- The normalisation loop leaves by its test, after as many shifts as the mantissa needs. -/
theorem normalise_spec (top : Nat) : ∀ (bound m : Nat) (w : Int), 0 < m → m < 2 ^ (top + 1) → 2 ^ top ≤ m * 2 ^ bound →
    ∃ k, k ≤ bound ∧ (m <<< k).testBit top = true ∧ (∀ j, j < k → (m <<< j).testBit top = false) ∧
      m <<< k < 2 ^ (top + 1) ∧ normalise top bound m w = (m <<< k, w - k) := by
  have test : ∀ m : Nat, m < 2 ^ (top + 1) → (m.testBit top = true ↔ 2 ^ top ≤ m) := by
    intro m hm
    constructor
    · exact Nat.ge_two_pow_of_testBit
    · intro hge
      have hone : m / 2 ^ top = 1 := by
        rw [Nat.pow_succ] at hm
        exact Nat.div_eq_of_lt_le (by omega) (by omega)
      rw [Nat.testBit_eq_decide_div_mod_eq, hone]; rfl
  intro bound
  induction bound with
  | zero =>
    intro m w _ hlt hge
    exact ⟨0, Nat.le_refl 0, by simpa [test m hlt] using hge, fun _ h => absurd h (Nat.not_lt_zero _),
      by simpa using hlt, by simp [normalise]⟩
  | succ bound ih =>
    intro m w hpos hlt hge
    by_cases hbit : m.testBit top = true
    · exact ⟨0, Nat.zero_le _, by simpa using hbit, fun _ h => absurd h (Nat.not_lt_zero _),
        by simpa using hlt, by simp [normalise, hbit]⟩
    · have hsmall : m < 2 ^ top := by
        by_contra hcon
        exact hbit ((test m hlt).2 (Nat.le_of_not_lt hcon))
      obtain ⟨k, hk, htop, hbefore, hrange, heq⟩ := ih (m <<< 1) (w - 1) (by rw [Nat.shiftLeft_eq]; omega)
        (by rw [Nat.shiftLeft_eq, Nat.pow_succ]; omega)
        (by rw [Nat.shiftLeft_eq, Nat.mul_assoc, ← Nat.pow_add, Nat.add_comm]; exact hge)
      have hshift : ∀ j, m <<< 1 <<< j = m <<< (j + 1) := fun j => by rw [← Nat.shiftLeft_add, Nat.add_comm]
      refine ⟨k + 1, by omega, by rw [← hshift]; exact htop, ?_, by rw [← hshift]; exact hrange, ?_⟩
      · intro j hj
        cases j with
        | zero => simpa using hbit
        | succ j => rw [← hshift]; exact hbefore j (by omega)
      · rw [normalise, if_neg hbit, heq, hshift]
        congr 1; push_cast; omega

end Sys2Proof.Machine
end

