-- ==== Sys2Proof/Laws/PerInstr.lean ====
section
/-! SUPPORT. Per-instruction family UnreservedCode: an operation's command is one a host may issue (spec/30_encoding.md R57), and
carries zeros on the bits its format does not read (spec/10_state.md R25). -/

namespace Sys2Proof.Laws.UnreservedCode

/-- What the family says of one instruction. -/
def Statement (i : Instr) : Prop :=
  (encode i).wellFormed = true ∧ (encode i).readBits i.format = encode i

theorem h2f (h : Half) : Statement (.h2f h) :=
  ⟨rfl, by simp [Command.readBits, encode, Instr.code, Instr.portA, Instr.portB, Instr.format, Format.aBits, Format.bBits]⟩

theorem f2h (f : F32) : Statement (.f2h f) :=
  ⟨rfl, by simp [Command.readBits, encode, Instr.code, Instr.portA, Instr.portB, Instr.format, Format.aBits, Format.bBits]⟩

theorem h2d (h : Half) : Statement (.h2d h) :=
  ⟨rfl, by simp [Command.readBits, encode, Instr.code, Instr.portA, Instr.portB, Instr.format, Format.aBits, Format.bBits]⟩

theorem d2h (d : F64) : Statement (.d2h d) :=
  ⟨rfl, by simp [Command.readBits, encode, Instr.code, Instr.portA, Instr.portB, Instr.format, Format.aBits, Format.bBits]⟩

theorem iszero (h : Half) : Statement (.iszero h) :=
  ⟨rfl, by simp [Command.readBits, encode, Instr.code, Instr.portA, Instr.portB, Instr.format, Format.aBits, Format.bBits]⟩

theorem isnan (h : Half) : Statement (.isnan h) :=
  ⟨rfl, by simp [Command.readBits, encode, Instr.code, Instr.portA, Instr.portB, Instr.format, Format.aBits, Format.bBits]⟩

theorem isinf (h : Half) : Statement (.isinf h) :=
  ⟨rfl, by simp [Command.readBits, encode, Instr.code, Instr.portA, Instr.portB, Instr.format, Format.aBits, Format.bBits]⟩

theorem isfinite (h : Half) : Statement (.isfinite h) :=
  ⟨rfl, by simp [Command.readBits, encode, Instr.code, Instr.portA, Instr.portB, Instr.format, Format.aBits, Format.bBits]⟩

theorem signbit (h : Half) : Statement (.signbit h) :=
  ⟨rfl, by simp [Command.readBits, encode, Instr.code, Instr.portA, Instr.portB, Instr.format, Format.aBits, Format.bBits]⟩

theorem neg (h : Half) : Statement (.neg h) :=
  ⟨rfl, by simp [Command.readBits, encode, Instr.code, Instr.portA, Instr.portB, Instr.format, Format.aBits, Format.bBits]⟩

theorem abs (h : Half) : Statement (.abs h) :=
  ⟨rfl, by simp [Command.readBits, encode, Instr.code, Instr.portA, Instr.portB, Instr.format, Format.aBits, Format.bBits]⟩

theorem copysign (x y : Half) : Statement (.copysign x y) :=
  ⟨rfl, by simp [Command.readBits, encode, Instr.code, Instr.portA, Instr.portB, Instr.format, Format.aBits, Format.bBits]⟩

theorem nextafter (x y : Half) : Statement (.nextafter x y) :=
  ⟨rfl, by simp [Command.readBits, encode, Instr.code, Instr.portA, Instr.portB, Instr.format, Format.aBits, Format.bBits]⟩

theorem eq (x y : Half) : Statement (.eq x y) :=
  ⟨rfl, by simp [Command.readBits, encode, Instr.code, Instr.portA, Instr.portB, Instr.format, Format.aBits, Format.bBits]⟩

theorem ne (x y : Half) : Statement (.ne x y) :=
  ⟨rfl, by simp [Command.readBits, encode, Instr.code, Instr.portA, Instr.portB, Instr.format, Format.aBits, Format.bBits]⟩

theorem lt (x y : Half) : Statement (.lt x y) :=
  ⟨rfl, by simp [Command.readBits, encode, Instr.code, Instr.portA, Instr.portB, Instr.format, Format.aBits, Format.bBits]⟩

theorem le (x y : Half) : Statement (.le x y) :=
  ⟨rfl, by simp [Command.readBits, encode, Instr.code, Instr.portA, Instr.portB, Instr.format, Format.aBits, Format.bBits]⟩

theorem gt (x y : Half) : Statement (.gt x y) :=
  ⟨rfl, by simp [Command.readBits, encode, Instr.code, Instr.portA, Instr.portB, Instr.format, Format.aBits, Format.bBits]⟩

theorem ge (x y : Half) : Statement (.ge x y) :=
  ⟨rfl, by simp [Command.readBits, encode, Instr.code, Instr.portA, Instr.portB, Instr.format, Format.aBits, Format.bBits]⟩

theorem eqNonan (x y : Half) : Statement (.eqNonan x y) :=
  ⟨rfl, by simp [Command.readBits, encode, Instr.code, Instr.portA, Instr.portB, Instr.format, Format.aBits, Format.bBits]⟩

theorem neNonan (x y : Half) : Statement (.neNonan x y) :=
  ⟨rfl, by simp [Command.readBits, encode, Instr.code, Instr.portA, Instr.portB, Instr.format, Format.aBits, Format.bBits]⟩

theorem ltNonan (x y : Half) : Statement (.ltNonan x y) :=
  ⟨rfl, by simp [Command.readBits, encode, Instr.code, Instr.portA, Instr.portB, Instr.format, Format.aBits, Format.bBits]⟩

theorem leNonan (x y : Half) : Statement (.leNonan x y) :=
  ⟨rfl, by simp [Command.readBits, encode, Instr.code, Instr.portA, Instr.portB, Instr.format, Format.aBits, Format.bBits]⟩

theorem gtNonan (x y : Half) : Statement (.gtNonan x y) :=
  ⟨rfl, by simp [Command.readBits, encode, Instr.code, Instr.portA, Instr.portB, Instr.format, Format.aBits, Format.bBits]⟩

theorem geNonan (x y : Half) : Statement (.geNonan x y) :=
  ⟨rfl, by simp [Command.readBits, encode, Instr.code, Instr.portA, Instr.portB, Instr.format, Format.aBits, Format.bBits]⟩

end Sys2Proof.Laws.UnreservedCode
end

