-- ==== Sys2Proof/Tests/Slice0.lean ====
section
/-! SUPPORT. The model's own tests. Every expected value is the spec's: command words from spec/30_encoding.md R50, R55 and the scripts
of spec/95_test_vectors.md section 4, results from its sections 1 and 2, witnesses of hypotheses from the corner cases of the rules. -/

namespace Sys2Proof.Tests

open Sys2Proof Sys2Proof.Machine

/-- The decoder's answer on a command word, as an Option. -/
def decodedWord (w : CommandWord) : Option Instr :=
  match decodeWord w with
  | .ok i => some i
  | .error _ => none

/-- What the host reads from `r` after one transaction from reset. -/
def resultOf (op : OpCode) (a : PortA) (b : PortB) : Option PortR :=
  match State.reset.transact ⟨op, a, b⟩ with
  | .next t => some t.r
  | .fault _ => none
  | .refused _ => none

/-! ### Well-formedness: an ill-formed term for each check -/

/-- R57: the check refuses each of the seven reserved codes, whatever the operands, and R55: it accepts the codes beside them. -/
theorem test_wellFormed_refuses_reserved :
    (Command.mk 0x0D 0x3C00 0).wellFormed = false ∧ (Command.mk 0x0E 0 0).wellFormed = false ∧
    (Command.mk 0x0F 0 0).wellFormed = false ∧ (Command.mk 0x16 0 0xFFFF).wellFormed = false ∧
    (Command.mk 0x17 0 0).wellFormed = false ∧ (Command.mk 0x1E 0 0).wellFormed = false ∧
    (Command.mk 0x1F 0 0).wellFormed = false ∧ (Command.mk 0x0C 0 0).wellFormed = true ∧
    (Command.mk 0x10 0 0).wellFormed = true ∧ (Command.mk 0x1D 0 0).wellFormed = true := by decide

/-- R196: the contract's check refuses a NaN operand, first or second, of a no-NaN comparison. -/
theorem test_contract_refuses_nan :
    contractHolds (.eqNonan 0x7C01 0x3C00) = false ∧ contractHolds (.geNonan 0x3C00 0xFFFF) = false ∧
    contractHolds (.ltNonan 0x7C00 0xFC00) = true ∧ safeCommand ⟨0x0D, 0, 0⟩ = false := by decide

/-! ### Decoding: the word of each operation, op in bits 84 to 80, a in 79 to 16, b in 15 to 0 (R50) -/

/-- P1 line 3. -/
theorem test_decode_h2f : decodedWord 0x000000000000003C010000 = some (.h2f 0x3C01) := by decide

/-- P1 line 1. -/
theorem test_decode_f2h : decodedWord 0x01000000003F8000000000 = some (.f2h 0x3F800000) := by decide

/-- P2 line 2. -/
theorem test_decode_h2d : decodedWord 0x020000000000003CCC0000 = some (.h2d 0x3CCC) := by decide

/-- P2 line 1. -/
theorem test_decode_d2h : decodedWord 0x033FF33333333333330000 = some (.d2h 0x3FF3333333333333) := by decide

/-- P3 line 3. -/
theorem test_decode_iszero : decodedWord 0x0400000000000080000000 = some (.iszero 0x8000) := by decide

/-- P4 line 2. -/
theorem test_decode_isnan : decodedWord 0x050000000000007C010000 = some (.isnan 0x7C01) := by decide

/-- P4 line 3. -/
theorem test_decode_isinf : decodedWord 0x060000000000007C010000 = some (.isinf 0x7C01) := by decide

/-- P5 line 7. -/
theorem test_decode_isfinite : decodedWord 0x070000000000007C000000 = some (.isfinite 0x7C00) := by decide

/-- P3 line 4. -/
theorem test_decode_signbit : decodedWord 0x0800000000000080000000 = some (.signbit 0x8000) := by decide

/-- P3 line 8. -/
theorem test_decode_neg : decodedWord 0x0900000000000080010000 = some (.neg 0x8001) := by decide

/-- P3 line 1. -/
theorem test_decode_abs : decodedWord 0x0A00000000000080000000 = some (.abs 0x8000) := by decide

/-- P3 line 2. -/
theorem test_decode_copysign : decodedWord 0x0B0000000000000000BC00 = some (.copysign 0x0000 0xBC00) := by decide

/-- P1 line 2. -/
theorem test_decode_nextafter : decodedWord 0x0C0000000000003C007C00 = some (.nextafter 0x3C00 0x7C00) := by decide

/-- P2 line 4. -/
theorem test_decode_eq : decodedWord 0x100000000000003CCC3CCC = some (.eq 0x3CCC 0x3CCC) := by decide

/-- P4 line 4. -/
theorem test_decode_ne : decodedWord 0x110000000000007C017C01 = some (.ne 0x7C01 0x7C01) := by decide

/-- P1 line 4. -/
theorem test_decode_lt : decodedWord 0x120000000000003C003C01 = some (.lt 0x3C00 0x3C01) := by decide

/-- P4 line 6. -/
theorem test_decode_le : decodedWord 0x130000000000007C017C00 = some (.le 0x7C01 0x7C00) := by decide

/-- R136's example on the fields of R50. -/
theorem test_decode_gt : decodedWord 0x1400000000000040003C00 = some (.gt 0x4000 0x3C00) := by decide

/-- R137's corner case on the fields of R50. -/
theorem test_decode_ge : decodedWord 0x150000000000007E003C00 = some (.ge 0x7E00 0x3C00) := by decide

/-- P4 line 9. -/
theorem test_decode_eqNonan : decodedWord 0x180000000000007C017C01 = some (.eqNonan 0x7C01 0x7C01) := by decide

/-- R142's example on the fields of R50. -/
theorem test_decode_neNonan : decodedWord 0x190000000000003C004000 = some (.neNonan 0x3C00 0x4000) := by decide

/-- R143's example on the fields of R50. -/
theorem test_decode_ltNonan : decodedWord 0x1A000000000000C0003C00 = some (.ltNonan 0xC000 0x3C00) := by decide

/-- R144's example on the fields of R50. -/
theorem test_decode_leNonan : decodedWord 0x1B00000000000080000000 = some (.leNonan 0x8000 0x0000) := by decide

/-- R145's example on the fields of R50. -/
theorem test_decode_gtNonan : decodedWord 0x1C0000000000007C007BFF = some (.gtNonan 0x7C00 0x7BFF) := by decide

/-- P1 line 5. -/
theorem test_decode_geNonan : decodedWord 0x1D0000000000003C003C01 = some (.geNonan 0x3C00 0x3C01) := by decide

/-- R57: a reserved code decodes to no operation, by name. -/
theorem test_decode_reserved : decodeWord 0x0D0000000000003C003C00 = .error (.reservedCode 0x0D) := rfl

/-- The table's numbering: the bits of `op` are bits 4 to 0, the operands are 0. -/
theorem test_decodeTableWord :
    decodeTableWord 8 0x1D = some (.geNonan 0 0) ∧ decodeTableWord 8 0x00 = some (.h2f 0) ∧ decodeTableWord 8 0x1E = none := by decide

/-! ### Results, one transaction each -/

/-- V-H2F-9: one shift; and V-H2F-3: ten shifts. -/
theorem test_h2f_subnormal : resultOf 0x00 0x03FF 0 = some 0x387FC000 ∧
    resultOf 0x00 0x0001 0 = some 0x33800000 := by decide

/-- Section 2.1, unused bits; V-H2F-27: a NaN is not quieted. -/
theorem test_h2f_unused_bits : resultOf 0x00 0xFFFFFFFFFFFF3C00 0xFFFF = some 0x3F800000 ∧
    resultOf 0x00 0x7D55 0 = some 0x7FAAA000 := by decide

/-- V-F2H-28, no rounding to nearest; V-F2H-8, just below 2^-24. -/
theorem test_f2h_truncates : resultOf 0x01 0x3F99999A 0 = some 0x3CCC ∧
    resultOf 0x01 0x337FFFFF 0 = some 0x0000 := by decide

/-- V-F2H-34, V-F2H-32 and the fix-up of V-F2H-41. -/
theorem test_f2h_overflow_and_nan : resultOf 0x01 0x47800000 0 = some 0x7C00 ∧
    resultOf 0x01 0x477FF000 0 = some 0x7BFF ∧
    resultOf 0x01 0x7F801FFF 0 = some 0x7C01 := by decide

/-- V-H2F-10; V-H2F-31, the all-ones pattern. -/
theorem test_h2d : resultOf 0x02 0x83FF 0 = some 0xBF0FF80000000000 ∧
    resultOf 0x02 0xFFFF 0 = some 0xFFFFFC0000000000 := by decide

/-- V-D2H-11, V-D2H-21, V-D2H-31: the rows that tell truncation, and the fix-up. -/
theorem test_d2h : resultOf 0x03 0x40EFFFFFFFFDE721 0 = some 0x7BFF ∧
    resultOf 0x03 0x3E6FFFFFFFFFFFFF 0 = some 0x0000 ∧
    resultOf 0x03 0x7FF003FFFFFFFFFF 0 = some 0x7C01 := by decide

/-- V-CLS-2, V-CLS-3. -/
theorem test_iszero : resultOf 0x04 0x8000 0 = some 1 ∧
    resultOf 0x04 0x0001 0 = some 0 := by decide

/-- V-CLS-13, V-CLS-10. -/
theorem test_isnan : resultOf 0x05 0xFC01 0 = some 1 ∧
    resultOf 0x05 0x7C00 0 = some 0 := by decide

/-- V-CLS-11, V-CLS-12. -/
theorem test_isinf : resultOf 0x06 0xFC00 0 = some 1 ∧
    resultOf 0x06 0x7C01 0 = some 0 := by decide

/-- V-CLS-8, V-CLS-16. -/
theorem test_isfinite : resultOf 0x07 0x7BFF 0 = some 1 ∧
    resultOf 0x07 0x7FFF 0 = some 0 := by decide

/-- V-CLS-15, V-CLS-14. -/
theorem test_signbit : resultOf 0x08 0xFE00 0 = some 1 ∧
    resultOf 0x08 0x7E00 0 = some 0 := by decide

/-- V-CLS-14. -/
theorem test_neg : resultOf 0x09 0x7E00 0 = some 0xFE00 := by decide

/-- V-CLS-17. -/
theorem test_abs : resultOf 0x0A 0xFFFF 0 = some 0x7FFF := by decide

/-- V-CPS-11: operands not exchanged. -/
theorem test_copysign : resultOf 0x0B 0x1234 0xABCD = some 0x9234 := by decide

/-- V-NXT-25, V-NXT-26, V-NXT-20. -/
theorem test_nextafter_signs : resultOf 0x0C 0xBC00 0xFC00 = some 0xBC01 ∧
    resultOf 0x0C 0xBC00 0x3C00 = some 0xBBFF ∧
    resultOf 0x0C 0x3C00 0xFC00 = some 0x3BFF := by decide

/-- V-NXT-5, V-NXT-13, V-NXT-36. -/
theorem test_nextafter_zeros_and_nan : resultOf 0x0C 0x0000 0x8000 = some 0x8000 ∧
    resultOf 0x0C 0x8001 0x3C00 = some 0x8000 ∧
    resultOf 0x0C 0xFE01 0x7E00 = some 0xFE01 := by decide

/-- V-CMP-1, V-CMP-18. -/
theorem test_eq : resultOf 0x10 0x0000 0x8000 = some 1 ∧
    resultOf 0x10 0x7E00 0x7E00 = some 0 := by decide

/-- V-CMP-18, V-CMP-2. -/
theorem test_ne : resultOf 0x11 0x7E00 0x7E00 = some 1 ∧
    resultOf 0x11 0x8000 0x0000 = some 0 := by decide

/-- V-CMP-11, V-CMP-10. -/
theorem test_lt : resultOf 0x12 0xC000 0xBC00 = some 1 ∧
    resultOf 0x12 0xBC00 0xBC01 = some 0 := by decide

/-- V-CMP-2, V-CMP-20. -/
theorem test_le : resultOf 0x13 0x8000 0x0000 = some 1 ∧
    resultOf 0x13 0x3C00 0xFE00 = some 0 := by decide

/-- V-CMP-10, V-CMP-13. -/
theorem test_gt : resultOf 0x14 0xBC00 0xBC01 = some 1 ∧
    resultOf 0x14 0x7BFF 0x7C00 = some 0 := by decide

/-- V-CMP-17, V-CMP-19. -/
theorem test_ge : resultOf 0x15 0xFC00 0xFC00 = some 1 ∧
    resultOf 0x15 0x7E00 0x3C00 = some 0 := by decide

/-- R141's corner case. -/
theorem test_eqNonan : resultOf 0x18 0x0000 0x8000 = some 1 := by decide

/-- R142's example. -/
theorem test_neNonan : resultOf 0x19 0x8000 0x0000 = some 0 := by decide

/-- R143's example. -/
theorem test_ltNonan : resultOf 0x1A 0xC000 0x3C00 = some 1 := by decide

/-- R144's example. -/
theorem test_leNonan : resultOf 0x1B 0x8000 0x0000 = some 1 := by decide

/-- R145's example. -/
theorem test_gtNonan : resultOf 0x1C 0x7C00 0x7BFF = some 1 := by decide

/-- P1 line 5. -/
theorem test_geNonan : resultOf 0x1D 0x3C00 0x3C01 = some 0 := by decide

/-- P4 line 9: with NaN operands a no-NaN comparison completes, with 0 or 1; which, no test says. -/
theorem test_nonan_completes_on_nan :
    ∃ v : Bool, resultOf 0x18 0x7C01 0x7C01 = some (if v then 1 else 0) := ⟨_, rfl⟩

/-! ### Witnesses: each meets all hypotheses of the statement named, for each clause at a boundary of its range -/

/-- StepRunsTheDecodedOperation (its second clause: test_decodeTableWord), EncodeOfDecodeKeepsTheBitsRead,
EveryStepEstablishesThePortInvariant, RepeatedTransactionsChangeNothing. -/
theorem witness_decoded_and_stepped :
    decode (State.mk 0x09 0x3C00 0xFFFF 0).command = .ok (.neg 0x3C00) ∧
    step ⟨0x09, 0x3C00, 0xFFFF, 0⟩ = .next ⟨0x09, 0x3C00, 0xFFFF, 0xBC00⟩ := ⟨rfl, rfl⟩

/-- StepAnswersOrRefusesByCode: codes at the edges of the reserved ranges. -/
theorem witness_codes :
    (0x0C : OpCode) ∉ reservedCodes ∧ (0x0D : OpCode) ∈ reservedCodes ∧ (0x0F : OpCode) ∈ reservedCodes ∧
    (0x10 : OpCode) ∉ reservedCodes ∧ (0x15 : OpCode) ∉ reservedCodes ∧ (0x16 : OpCode) ∈ reservedCodes ∧
    (0x17 : OpCode) ∈ reservedCodes ∧ (0x18 : OpCode) ∉ reservedCodes ∧ (0x1D : OpCode) ∉ reservedCodes ∧
    (0x1E : OpCode) ∈ reservedCodes ∧ (0x1F : OpCode) ∈ reservedCodes := by decide

/-- TransactionsReadInputsAndWriteOnlyR: two states that differ in `r`, answered and refused. -/
theorem witness_equal_inputs :
    (State.mk 0x08 0x8000 0 5).command = (State.mk 0x08 0x8000 0 6).command ∧
    step ⟨0x08, 0x8000, 0, 5⟩ = .next ⟨0x08, 0x8000, 0, 1⟩ ∧
    (State.mk 0x1F 0 0 5).command = (State.mk 0x1F 0 0 6).command ∧
    step ⟨0x1F, 0, 0, 5⟩ = .refused (.reservedOp 0x1F) := ⟨rfl, rfl, rfl, rfl⟩

/-- ScriptResultsDoNotDependOnOrderOrInstance: two transactions exchanged. -/
theorem witness_permuted_script :
    ([⟨0x00, 0x3C00, 0⟩, ⟨0x1E, 0, 0⟩] : List Command).Perm [⟨0x1E, 0, 0⟩, ⟨0x00, 0x3C00, 0⟩] := by decide

/-- SafeScriptsAreAnswered: a no-NaN comparison under its contract and a general one. -/
theorem witness_safe_script : safeScript [⟨0x1D, 0x3C00, 0x3C01⟩, ⟨0x10, 0x7E00, 0x7E00⟩, ⟨0x18, 0x7C00, 0xFC00⟩] = true := by
  decide

/-- UnreadBitsDoNotChangeTheResult: for NEG, other bits of `a` and all of `b` differ. -/
theorem witness_unread_bits :
    decode ⟨0x09, 0x3C00, 0⟩ = .ok (.neg 0x3C00) ∧
    Command.readBits .U16 ⟨0x09, 0xDEADBEEF00003C00, 0xFFFF⟩ = Command.readBits .U16 ⟨0x09, 0x3C00, 0⟩ := ⟨rfl, by decide⟩

/-- PackAndSplitAreInverse, PackAndSplit64AreInverse: the largest fields. -/
theorem witness_pack_ranges :
    fields16 (pack16 1 31 1023) = ⟨1, 31, 1023⟩ ∧ fields32 (pack32 1 255 (2 ^ 23 - 1)) = ⟨1, 255, 2 ^ 23 - 1⟩ ∧
    fields64 (pack64 1 2047 (2 ^ 52 - 1)) = ⟨1, 2047, 2 ^ 52 - 1⟩ := by decide

/-- H2fFollowsItsBranches, H2dEqualsItsClosedForm: infinity, NaN, zero, smallest and largest subnormal, smallest and largest normal. -/
theorem witness_half_branches :
    fields16 0x7C00 = ⟨0, 0x1F, 0⟩ ∧ fields16 0xFC01 = ⟨1, 0x1F, 1⟩ ∧ fields16 0x8000 = ⟨1, 0, 0⟩ ∧
    fields16 0x0001 = ⟨0, 0, 1⟩ ∧ fields16 0x03FF = ⟨0, 0, 1023⟩ ∧ 2 ^ 0 ≤ 1 ∧ 1 < 2 ^ (0 + 1) ∧ 2 ^ 9 ≤ 1023 ∧ 1023 < 2 ^ (9 + 1) ∧
    fields16 0x0400 = ⟨0, 1, 0⟩ ∧ fields16 0x7BFF = ⟨0, 30, 1023⟩ := by decide

/-- F2hFollowsItsBranches: both ends of every clause. -/
theorem witness_float32_branches :
    fields32 0x7F800000 = ⟨0, 255, 0⟩ ∧ fields32 0x7F800001 = ⟨0, 255, 1⟩ ∧ fields32 0x7F801FFF = ⟨0, 255, 8191⟩ ∧
    fields32 0x7F802000 = ⟨0, 255, 8192⟩ ∧ fields32 0x47800000 = ⟨0, 143, 0⟩ ∧ fields32 0x7F7FFFFF = ⟨0, 254, 8388607⟩ ∧
    fields32 0x38800000 = ⟨0, 113, 0⟩ ∧ fields32 0x477FFFFF = ⟨0, 142, 8388607⟩ ∧ fields32 0x33000000 = ⟨0, 102, 0⟩ ∧
    fields32 0x387FFFFF = ⟨0, 112, 8388607⟩ ∧ fields32 0xB2FFFFFF = ⟨1, 101, 8388607⟩ ∧ fields32 0x00000000 = ⟨0, 0, 0⟩ := by
  decide

/-- D2hEqualsTheDirectConversion: both ends of every clause. -/
theorem witness_float64_branches :
    fields64 0x7FF0000000000000 = ⟨0, 2047, 0⟩ ∧ fields64 0x7FF003FFFFFFFFFF = ⟨0, 2047, 2 ^ 42 - 1⟩ ∧
    fields64 0x7FF0040000000000 = ⟨0, 2047, 2 ^ 42⟩ ∧ fields64 0x40F0000000000000 = ⟨0, 1039, 0⟩ ∧
    fields64 0x7FEFFFFFFFFFFFFF = ⟨0, 2046, 2 ^ 52 - 1⟩ ∧ fields64 0x3F10000000000000 = ⟨0, 1009, 0⟩ ∧
    fields64 0x40EFFFFFFFFFFFFF = ⟨0, 1038, 2 ^ 52 - 1⟩ ∧ fields64 0x3E60000000000000 = ⟨0, 998, 0⟩ ∧
    fields64 0x3F0FFFFFFFFFFFFF = ⟨0, 1008, 2 ^ 52 - 1⟩ ∧ fields64 0xBE5FFFFFFFFFFFFF = ⟨1, 997, 2 ^ 52 - 1⟩ := by decide

/-- F2hTruncatesTheNumber: the fields of 2^-24, of the pattern below it, of 65536 and of the pattern below it (V-F2H-8, V-F2H-9,
V-F2H-33, V-F2H-34), and the numbers they stand for. -/
theorem witness_truncation_bounds :
    fields32 0x33800000 = ⟨0, 103, 0⟩ ∧ |(Fields.mk 0 103 0).finiteVal bias32 23| = 2 ^ (-24 : Int) ∧
    fields32 0x337FFFFF = ⟨0, 102, 8388607⟩ ∧ |(Fields.mk 0 102 8388607).finiteVal bias32 23| < 2 ^ (-24 : Int) ∧
    fields32 0x47800000 = ⟨0, 143, 0⟩ ∧ |(Fields.mk 0 143 0).finiteVal bias32 23| = 65536 ∧
    fields32 0x477FFFFF = ⟨0, 142, 8388607⟩ ∧ |(Fields.mk 0 142 8388607).finiteVal bias32 23| < 65536 := by
  refine ⟨by decide, ?_, by decide, ?_, by decide, ?_, by decide, ?_⟩ <;> norm_num [Fields.finiteVal, bias32, abs_of_pos]

/-- The value of 1.0, 2.0 and the infinities (R80). -/
theorem witness_values :
    val16 0x3C00 = some (((1 : ℚ) : WithTop ℚ) : ExtNum) ∧ val16 0x4000 = some (((2 : ℚ) : WithTop ℚ) : ExtNum) ∧
    val16 0x7C00 = some ⊤ ∧ val16 0xFC00 = some ⊥ ∧ val16 0x7E00 = none := by
  have h1 : fields16 0x3C00 = ⟨0, 15, 0⟩ := by decide
  have h2 : fields16 0x4000 = ⟨0, 16, 0⟩ := by decide
  refine ⟨?_, ?_, rfl, rfl, rfl⟩
  · rw [val16, h1]; norm_num [Fields.val, Fields.finiteVal, bias16]
  · rw [val16, h2]; norm_num [Fields.val, Fields.finiteVal, bias16]

/-- NextafterIsAdjacent: 1.0 toward 2.0, and 2.0 toward minus infinity. -/
theorem witness_adjacent :
    (∃ a b, val16 0x3C00 = some a ∧ val16 0x4000 = some b ∧ a ≠ b) ∧
    (∃ a b, val16 0x4000 = some a ∧ val16 0xFC00 = some b ∧ a ≠ b) := by
  obtain ⟨h1, h2, -, h4, -⟩ := witness_values
  refine ⟨⟨_, _, h1, h2, by norm_num⟩, ⟨_, _, h2, h4, WithBot.coe_ne_bot⟩⟩

/-- F2hIsMonotone: minus infinity below every number. -/
theorem witness_monotone : Related (· ≤ ·) (val32 0xFF800000) (val32 0x3F800000) := by
  have h : fields32 0x3F800000 = ⟨0, 127, 0⟩ := by decide
  exact ⟨⊥, _, rfl, by rw [val32, h]; rfl, bot_le⟩

/-- PredicatesUnderNegAndAbs, SignOperationRelations. -/
theorem witness_neg_and_abs :
    exec (.neg 0xFE00) State.reset = .next { State.reset with r := (0x7E00 : Half).setWidth 64 } ∧
    exec (.abs 0xFE00) State.reset = .next { State.reset with r := (0x7E00 : Half).setWidth 64 } := ⟨rfl, rfl⟩

/-- NonanComparisonsMeetTheirContract, StepUpThenDownReturns: an infinity is no NaN, and the largest finite half is finite. -/
theorem witness_not_nan :
    isNaN16 0x7C00 = false ∧ isNaN16 0xFC00 = false ∧ isFinite16 0x7BFF = true ∧ isZero16 0x7BFF = false ∧
    isZero16 (nextafter 0x7BFF 0x7C00) = false := by decide

/-- NextafterStepsTheKey: NaN first, NaN second, equal zeros, up, down, and a key of 0 reached from each side. -/
theorem witness_key_clauses :
    isNaN16 0x7C01 = true ∧ isNaN16 0x7C00 = false ∧ isNaN16 0x7E01 = true ∧ key16 0x0000 = key16 0x8000 ∧
    key16 0x7BFF < key16 0x7C00 ∧ key16 0xFC00 < key16 0x7C00 ∧ key16 0x8001 < key16 0x0000 ∧
    key16 0x8001 + 1 = 0 ∧ key16 0x0000 < key16 0x0001 ∧ key16 0x0001 - 1 = 0 := by decide

/-- R31: `r` shows the result as soon as the inputs are presented: ISZERO of 0 shows 1, and 0 again when the operand is 1. -/
theorem test_output_follows_inputs :
    (State.reset.present ⟨0x04, 0, 0⟩).r = 1 ∧ ((State.reset.present ⟨0x04, 0, 0⟩).present ⟨0x04, 1, 0⟩).r = 0 ∧
    (State.reset.withFetchWord 8 0x04).r = 1 := by decide

/-- OutputIsAtAllTimesAFunctionOfTheInputs: one command presented at once, and after others; and a state a step has left. -/
theorem witness_reachable :
    Reachable (State.reset.present ⟨0x04, 0, 0⟩) ∧
    Reachable (((State.reset.present ⟨0x08, 0x8000, 0⟩).present ⟨0x1F, 0, 0⟩).present ⟨0x04, 0, 0⟩) ∧
    Reachable ⟨0x08, 0x8000, 0, 1⟩ :=
  ⟨.presented _ .powered, .presented _ (.presented _ (.presented _ .powered)),
    .stepped (.presented ⟨0x08, 0x8000, 0⟩ .powered) rfl⟩

/-- PresentedInputsShowTheirResult: a command that decodes, and a reserved one. -/
theorem witness_presented :
    decode ⟨0x04, 0, 0⟩ = .ok (.iszero 0) ∧ isReserved (Command.mk 0x0D 0 0).op = true := ⟨rfl, by decide⟩

/-- ResetPortsSatisfyTheInvariant's premise-free half on one field: at reset `r` is H2F of 0x0000 (V-H2F-1). -/
theorem test_reset_result : resultOf 0x00 0 0 = some State.reset.r := by decide

end Sys2Proof.Tests
end

section
/-! PROOF. The statements of spec/10_state.md: what a transaction reads and what it writes. -/

namespace Sys2Proof.Machine

/-- Every operation ends in one `drive`, of a result that does not depend on the state (R20, R170). -/
theorem exec_eq_drive (i : Instr) : ∃ v : PortR, ∀ s : State, exec i s = s.drive v := by
  cases i <;> exact ⟨_, fun _ => rfl⟩

/-- Everything a step can do with a command: drive one result, or refuse with one reason, the same for every state that carries the
command. -/
theorem step_cases (c : Command) :
    (∃ v : PortR, ∀ s : State, s.command = c → step s = s.drive v) ∨
    (∃ q : Refusal, ∀ s : State, s.command = c → step s = .refused q) := by
  obtain ⟨-, hreserved⟩ | ⟨-, i, hi, -⟩ := decode_cases c
  · refine .inr ⟨.reservedOp c.op, ?_⟩
    rintro s rfl
    exact step_of_decode_error hreserved
  · obtain ⟨v, hv⟩ := exec_eq_drive i
    refine .inl ⟨v, ?_⟩
    rintro s rfl
    rw [step_of_decode_ok hi, hv]

/-- Settles O3: equal commands fall in the same case of `step_cases`, with the same driven result or the same refusal. -/
theorem transactionsReadInputsAndWriteOnlyR : Obligations.TransactionsReadInputsAndWriteOnlyR := by
  intro s s' hcommand
  obtain ⟨v, hv⟩ | ⟨p, hp⟩ := step_cases s.command
  · rw [hv s rfl, hv s' hcommand.symm]
    refine ⟨fun t ht => ?_, nofun, nofun⟩
    obtain rfl := State.drive_eq_next_iff.mp ht
    exact ⟨rfl, rfl⟩
  · rw [hp s rfl, hp s' hcommand.symm]
    exact ⟨nofun, fun q hq => hq, nofun⟩

end Sys2Proof.Machine
end

section
/-! PROOF. The statements of spec/40_codec_core.md: packing and splitting a pattern undo each other (R74, R75). -/

namespace Sys2Proof.Machine

/-- Fields are known by their three components, so that each component's law is used on its own. -/
theorem Fields.eq_mk_iff {F : Fields} {s E M : Nat} : F = ⟨s, E, M⟩ ↔ F.s = s ∧ F.E = E ∧ F.M = M := by
  cases F; simp only [Fields.mk.injEq]

/-- R74: the three fields of a half are its quotients and remainder by the field positions, which the packed sum adds up again. -/
theorem pack16_fields16 (h : Half) : pack16 (fields16 h).s (fields16 h).E (fields16 h).M = h := by
  apply BitVec.eq_of_toNat_eq
  rw [pack16_toNat (fields16_s_lt h) (fields16_E_lt h) (fields16_M_lt h), fields16_s, fields16_E, fields16_M]
  omega

/-- R74: in range, no field of the packed sum carries into the next one. -/
theorem fields16_pack16 {s E M : Nat} (hs : s < 2) (hE : E < 32) (hM : M < 1024) :
    fields16 (pack16 s E M) = ⟨s, E, M⟩ := by
  rw [Fields.eq_mk_iff, fields16_s, fields16_E, fields16_M, pack16_toNat hs hE hM]
  omega

/-- R75: `pack16_fields16` at the float32 positions. -/
theorem pack32_fields32 (f : F32) : pack32 (fields32 f).s (fields32 f).E (fields32 f).M = f := by
  apply BitVec.eq_of_toNat_eq
  rw [pack32_toNat (fields32_s_lt f) (fields32_E_lt f) (fields32_M_lt f), fields32_s, fields32_E, fields32_M]
  omega

/-- R75: `fields16_pack16` at the float32 positions. -/
theorem fields32_pack32 {s E M : Nat} (hs : s < 2) (hE : E < 256) (hM : M < 8388608) :
    fields32 (pack32 s E M) = ⟨s, E, M⟩ := by
  rw [Fields.eq_mk_iff, fields32_s, fields32_E, fields32_M, pack32_toNat hs hE hM]
  omega

/-- Settles O16: the two directions for each of the two patterns. -/
theorem packAndSplitAreInverse : Obligations.PackAndSplitAreInverse := by
  refine ⟨pack16_fields16, fun s E M hs hE hM => ?_, pack32_fields32, fun s E M hs hE hM => ?_⟩
  · exact fields16_pack16 (Nat.lt_succ_of_le hs) (Nat.lt_succ_of_le hE) (Nat.lt_succ_of_le hM)
  · exact fields32_pack32 (Nat.lt_succ_of_le hs) (Nat.lt_succ_of_le hE) (Nat.lt_succ_of_le hM)

end Sys2Proof.Machine
end

section
/-! PROOF. The statements of spec/42_classification.md: the patterns each predicate holds for (R120 to R124). -/

namespace Sys2Proof.Machine

/-- R120: magnitude 0 with either sign. -/
theorem isZero16_iff_pattern (h : Half) : isZero16 h = true ↔ h = 0x0000 ∨ h = 0x8000 := by
  have hlt := h.isLt
  rw [isZero16_iff, ← BitVec.toNat_inj, ← BitVec.toNat_inj]
  change _ ↔ h.toNat = 0 ∨ h.toNat = 32768
  omega

/-- R121: a magnitude above that of infinity, once for each sign. -/
theorem isNaN16_iff_pattern (h : Half) :
    isNaN16 h = true ↔ (0x7C01 ≤ h.toNat ∧ h.toNat ≤ 0x7FFF) ∨ (0xFC01 ≤ h.toNat ∧ h.toNat ≤ 0xFFFF) := by
  have hlt := h.isLt
  rw [isNaN16_iff]
  omega

/-- R122: the magnitude of infinity with either sign. -/
theorem isInf16_iff_pattern (h : Half) : isInf16 h = true ↔ h = 0x7C00 ∨ h = 0xFC00 := by
  have hlt := h.isLt
  rw [isInf16_iff, ← BitVec.toNat_inj, ← BitVec.toNat_inj]
  change _ ↔ h.toNat = 31744 ∨ h.toNat = 64512
  omega

/-- Neither NaN nor infinite is a magnitude below that of infinity. -/
theorem isFinite16_iff (h : Half) : isFinite16 h = true ↔ h.toNat % 32768 < 31744 := by
  rw [isFinite16, Bool.not_eq_true', Bool.or_eq_false_iff, ← Bool.not_eq_true, ← Bool.not_eq_true, isNaN16_iff, isInf16_iff]
  omega

/-- R123: the magnitudes below that of infinity, once for each sign. -/
theorem isFinite16_iff_pattern (h : Half) :
    isFinite16 h = true ↔ h.toNat ≤ 0x7BFF ∨ (0x8000 ≤ h.toNat ∧ h.toNat ≤ 0xFBFF) := by
  have hlt := h.isLt
  rw [isFinite16_iff]
  omega

/-- R25: a Boolean result is 1 exactly where the condition holds, and drives `r` alone. -/
theorem drive_placeBool {v : Bool} {p : Prop} [Decidable p] (hv : v = true ↔ p) (s : State) :
    s.drive (placeBool v) = .next { s with r := if p then 1 else 0 } := by
  rw [State.drive_eq_next_iff, placeBool, if_congr hv rfl rfl]

/-- Settles O28: each predicate drives the Boolean whose patterns its lemma above lists; those of SIGNBIT are `sign16_iff`'s. -/
theorem predicatesAnswerForTheirPatterns : Obligations.PredicatesAnswerForTheirPatterns := fun h s =>
  ⟨drive_placeBool (isZero16_iff_pattern h) s, drive_placeBool (isNaN16_iff_pattern h) s,
    drive_placeBool (isInf16_iff_pattern h) s, drive_placeBool (isFinite16_iff_pattern h) s,
    drive_placeBool (sign16_iff h) s⟩

end Sys2Proof.Machine
end

section
/-! PROOF. The statements of spec/44_sign_ops.md: each sign operation bit by bit (R150 to R152). -/

namespace Sys2Proof.Machine

/-- The sign mask of R150 and R152 is bit 15 alone. -/
theorem getLsbD_signMask (j : Nat) : (0x8000#16).getLsbD j = decide (j = 15) := by
  change (BitVec.twoPow 16 15).getLsbD j = _
  simp [BitVec.getLsbD_twoPow, eq_comm]

/-- The magnitude mask of R151 and R152 is bits 14 to 0. -/
theorem getLsbD_magnitudeMask (j : Nat) : (0x7FFF#16).getLsbD j = decide (j < 15) :=
  Nat.testBit_two_pow_sub_one 15 j

/-- R150: bit 15 is flipped, every other bit is kept. -/
theorem getLsbD_neg16 (h : Half) (j : Nat) : (neg16 h).getLsbD j = (h.getLsbD j ^^ decide (j = 15)) := by
  rw [neg16, BitVec.getLsbD_xor, getLsbD_signMask]

/-- R151: only bits 14 to 0 are kept. -/
theorem getLsbD_abs16 (h : Half) (j : Nat) : (abs16 h).getLsbD j = (h.getLsbD j && decide (j < 15)) := by
  rw [abs16, BitVec.getLsbD_and, getLsbD_magnitudeMask]

/-- R152: bits 14 to 0 of `x` and bit 15 of `y`, with no overlap. -/
theorem getLsbD_copysign16 (x y : Half) (j : Nat) :
    (copysign16 x y).getLsbD j = (x.getLsbD j && decide (j < 15) || y.getLsbD j && decide (j = 15)) := by
  rw [copysign16, BitVec.getLsbD_or, BitVec.getLsbD_and, BitVec.getLsbD_and, getLsbD_magnitudeMask, getLsbD_signMask]

/-- Settles O31: the half each operation drives, read at bit 15 and at a bit below it, where the masks are constants. -/
theorem signOperationsChangeOnlyBit15 : Obligations.SignOperationsChangeOnlyBit15 := by
  intro x y s
  refine ⟨⟨neg16 x, rfl, ?_, fun j hj => ?_⟩, ⟨abs16 x, rfl, ?_, fun j hj => ?_⟩, ⟨copysign16 x y, rfl, ?_, fun j hj => ?_⟩⟩
  · rw [getLsbD_neg16]; simp
  · rw [getLsbD_neg16]; simp [hj.ne]
  · rw [getLsbD_abs16]; simp
  · rw [getLsbD_abs16]; simp [hj]
  · rw [getLsbD_copysign16]; simp
  · rw [getLsbD_copysign16]; simp [hj, hj.ne]

end Sys2Proof.Machine
end

section
/-! PROOF. The block as a function of its inputs (spec/10_state.md R20, R25, R31; spec/60_exceptions.md R170): what each
operation, a step and a presented command leave on the ports. -/

namespace Sys2Proof.Machine

/-- Equal Booleans are driven alike. -/
theorem drive_placeBool_congr {v w : Bool} (h : v = w) (s : State) : s.drive (placeBool v) = s.drive (placeBool w) := by
  rw [h]

/-- Equal halves are driven alike. -/
theorem drive_placeHalf_congr {v w : Half} (h : v = w) (s : State) : s.drive (placeHalf v) = s.drive (placeHalf w) := by
  rw [h]

theorem placeBool_lt (v : Bool) : (placeBool v).toNat < 2 ^ ResultType.bool.width := by
  rw [placeBool_toNat]; exact v.toNat_lt

theorem placeHalf_lt (h : Half) : (placeHalf h).toNat < 2 ^ ResultType.half.width := by
  rw [placeHalf_toNat]; exact h.isLt

theorem placeF32_lt (f : F32) : (placeF32 f).toNat < 2 ^ ResultType.f32.width := by
  rw [placeF32_toNat]; exact f.isLt

theorem placeF64_lt (d : F64) : (placeF64 d).toNat < 2 ^ ResultType.f64.width := d.isLt

/-- Settles O4: each operation drives a placed result of its own type. -/
theorem everyOperationCompletes : Obligations.EveryOperationCompletes := by
  intro i
  cases i with
  | h2f _ => exact ⟨_, placeF32_lt _, fun _ => rfl⟩
  | h2d _ => exact ⟨_, placeF64_lt _, fun _ => rfl⟩
  | f2h _ | d2h _ | neg _ | abs _ | copysign _ _ | nextafter _ _ => exact ⟨_, placeHalf_lt _, fun _ => rfl⟩
  | iszero _ | isnan _ | isinf _ | isfinite _ | signbit _ => exact ⟨_, placeBool_lt _, fun _ => rfl⟩
  | eq _ _ | ne _ _ | lt _ _ | le _ _ | gt _ _ | ge _ _ => exact ⟨_, placeBool_lt _, fun _ => rfl⟩
  | eqNonan _ _ | neNonan _ _ | ltNonan _ _ | leNonan _ _ | gtNonan _ _ | geNonan _ _ =>
    exact ⟨_, placeBool_lt _, fun _ => rfl⟩

/-- The output for a command that decodes is what its operation drives from every state, and fits the operation's result type. -/
theorem output_of_decode {c : Command} {i : Instr} (h : decode c = .ok i) :
    (output c).toNat < 2 ^ i.resultType.width ∧ ∀ s : State, exec i s = .next { s with r := output c } := by
  obtain ⟨v, hfits, hexec⟩ := everyOperationCompletes i
  have hv : output c = v := output_of_exec h (hexec _)
  rw [hv]
  exact ⟨hfits, hexec⟩

/-- A step answers exactly when the command decodes, and then puts the output for the inputs on `r`. -/
theorem step_eq_next_iff {s t : State} :
    step s = .next t ↔ (∃ i, decode s.command = .ok i) ∧ t = { s with r := output s.command } := by
  obtain ⟨-, hreserved⟩ | ⟨-, i, hi, -⟩ := decode_cases s.command
  · rw [step_of_decode_error hreserved, hreserved]; simp
  · rw [step_of_decode_ok hi, (output_of_decode hi).2 s, hi]; simp [eq_comm]

/-- Ports whose `r` is the output for the inputs satisfy the invariant: the output of every command that decodes is placed. -/
theorem State.inv_of_settled {s : State} (h : s.Settled) : s.Inv := by
  refine ⟨h, fun i hi => ?_⟩
  rw [h]
  exact (output_of_decode hi).1

/-- Settles O7: after a step `r` is the output for the inputs, which the step left as they were. -/
theorem everyStepEstablishesThePortInvariant : Obligations.EveryStepEstablishesThePortInvariant := by
  intro s t h
  obtain ⟨-, rfl⟩ := step_eq_next_iff.mp h
  exact State.inv_of_settled rfl

/-- Settles O6: the step from reset is H2F of 0x0000, and O7's step lemma gives the invariant of the state it answers. -/
theorem resetPortsSatisfyTheInvariant : Obligations.ResetPortsSatisfyTheInvariant := by
  have hstep : step State.reset = .next State.reset := rfl
  exact ⟨everyStepEstablishesThePortInvariant _ _ hstep, hstep⟩

/-- Settles O1: a table word decodes exactly as the command `withFetchWord` presents. -/
theorem stepRunsTheDecodedOperation : Obligations.StepRunsTheDecodedOperation := by
  refine fun s => ⟨fun i hi => step_of_decode_ok hi, fun nbits w i hi => ⟨step_of_decode_ok ?_, rfl⟩⟩
  rw [State.withFetchWord_command]
  unfold decodeTableWord at hi
  split at hi
  · rename_i j hj
    rw [hj, Option.some.inj hi]
  · cases hi

/-- R57: a reserved code is rejected. -/
theorem decode_of_reserved {c : Command} (h : isReserved c.op = true) : decode c = .error (.reservedCode c.op) := by
  obtain ⟨-, herror⟩ | ⟨hcode, -⟩ := decode_cases c
  · exact herror
  · exact absurd (h.symm.trans hcode) (by decide)

/-- R55: every other code names an operation. -/
theorem decode_of_not_reserved {c : Command} (h : isReserved c.op = false) : ∃ i, decode c = .ok i ∧ i.code = c.op := by
  obtain ⟨hcode, -⟩ | ⟨-, hi⟩ := decode_cases c
  · exact absurd (h.symm.trans hcode) (by decide)
  · exact hi

theorem isReserved_iff_mem (op : OpCode) : isReserved op = true ↔ op ∈ reservedCodes := by
  rw [isReserved, List.contains_iff_mem]

/-- Settles O2: the two cases of the decoder. -/
theorem stepAnswersOrRefusesByCode : Obligations.StepAnswersOrRefusesByCode := by
  intro s
  change (s.op ∉ reservedCodes → _) ∧ (s.op ∈ reservedCodes → _)
  rw [← isReserved_iff_mem, Bool.not_eq_true]
  refine ⟨fun hcode => ?_, fun hcode => step_of_decode_error (decode_of_reserved hcode)⟩
  obtain ⟨i, hi, -⟩ := decode_of_not_reserved (c := s.command) hcode
  exact ⟨_, step_eq_next_iff.mpr ⟨⟨i, hi⟩, rfl⟩⟩

/-- R43: the state a step answers is one that a step leaves as it is. -/
theorem step_of_step_eq_next {s t : State} (h : step s = .next t) : step t = .next t := by
  obtain ⟨hi, rfl⟩ := step_eq_next_iff.mp h
  exact step_eq_next_iff.mpr ⟨hi, rfl⟩

theorem run_succ_of_step {s t : State} (h : step s = .next t) (k : Nat) : core.run (k + 1) s = core.run k t := by
  have hcore : core.step s = .next t := h
  simp only [Host.Core.run, hcore]

/-- A state that a step leaves as it is, any number of steps leave as it is. -/
theorem run_of_fixed {t : State} (h : step t = .next t) (k : Nat) : core.run k t = .next t := by
  induction k with
  | zero => rfl
  | succ k ih => rw [run_succ_of_step h, ih]

/-- Settles O5: the first step reaches a state that the other `k` leave as it is. -/
theorem repeatedTransactionsChangeNothing : Obligations.RepeatedTransactionsChangeNothing := by
  intro s t k h
  rw [run_succ_of_step h, run_of_fixed (step_of_step_eq_next h)]

/-- R20: reset, presenting and stepping each leave the output for the inputs on `r`. -/
theorem Reachable.settled {s : State} (h : Reachable s) : s.Settled := by
  induction h with
  | powered => exact (everyStepEstablishesThePortInvariant State.reset State.reset rfl).1
  | presented c _ _ => exact State.present_r _ c
  | stepped _ hstep _ => exact (everyStepEstablishesThePortInvariant _ _ hstep).1

/-- Settles O41: states with equal inputs and the output for them on `r` are equal. -/
theorem outputIsAtAllTimesAFunctionOfTheInputs : Obligations.OutputIsAtAllTimesAFunctionOfTheInputs := by
  refine ⟨fun s hs => hs.settled, fun s s' hs hs' hcommand => State.ext_command_r hcommand ?_⟩
  calc s.r = output s.command := hs.settled
    _ = output s'.command := by rw [hcommand]
    _ = s'.r := hs'.settled.symm

/-- A presented command that decodes is answered at once: a step leaves the ports as they are. -/
theorem step_present {c : Command} {i : Instr} (hi : decode c = .ok i) (s : State) :
    step (s.present c) = .next (s.present c) :=
  step_eq_next_iff.mpr ⟨⟨i, hi⟩, rfl⟩

/-- Settles O42: a presented command has its output on `r`, and the decoder's two cases say what a step does with it. -/
theorem presentedInputsShowTheirResult : Obligations.PresentedInputsShowTheirResult := by
  refine fun s c => ⟨rfl, State.inv_of_settled rfl, fun _ => rfl,
    fun i hi => ⟨(output_of_decode hi).2, step_present hi s⟩, fun hcode => ?_⟩
  exact step_of_decode_error (s := s.present c) (decode_of_reserved hcode)

end Sys2Proof.Machine
end

section
/-! PROOF. The statements of spec/30_encoding.md: decoder and encoder undo each other, and the command word holds the ports
(R50 to R57). -/

namespace Sys2Proof.Machine

/-- R24, R50: an operand of at most 64 bits, zero-extended onto port `a`, is read back by the slice of its width. -/
theorem setWidth_zeroExtend {w : Nat} (hw : w ≤ 64) (v : BitVec w) : (v.setWidth 64).setWidth w = v := by
  rw [BitVec.setWidth_setWidth_of_le v hw, BitVec.setWidth_eq]

@[simp] theorem halfA_zeroExtend (op : OpCode) (h : Half) (b : PortB) : halfA ⟨op, h.setWidth 64, b⟩ = h :=
  setWidth_zeroExtend (by decide) h

@[simp] theorem f32A_zeroExtend (op : OpCode) (f : F32) (b : PortB) : f32A ⟨op, f.setWidth 64, b⟩ = f :=
  setWidth_zeroExtend (by decide) f

@[simp] theorem f64A_mk (op : OpCode) (d : F64) (b : PortB) : f64A ⟨op, d, b⟩ = d := rfl

@[simp] theorem halfB_mk (op : OpCode) (a : PortA) (y : Half) : halfB ⟨op, a, y⟩ = y := rfl

/-- The code selects the operation, and each operand is read back from the port the encoder put it on. -/
theorem decode_encode (i : Instr) : decode (encode i) = .ok i := by
  cases i <;> simp [decode, encode, Instr.code, Instr.portA, Instr.portB]

/-- The 85-bit word is the sum of its fields at their positions. -/
theorem toWord_toNat (c : Command) : c.toWord.toNat = c.op.toNat * 2 ^ 80 + c.a.toNat * 2 ^ 16 + c.b.toNat := by
  have ha := c.a.isLt
  rw [Command.toWord, BitVec.toNat_append, shiftLeft_or_eq_add c.b.isLt, BitVec.toNat_append, shiftLeft_or_eq_add ha]
  omega

theorem ofWord_op_toNat (w : CommandWord) : (Command.ofWord w).op.toNat = w.toNat / 2 ^ 80 := by
  rw [Command.ofWord, BitVec.extractLsb'_toNat, Nat.shiftRight_eq_div_pow]
  omega

theorem ofWord_a_toNat (w : CommandWord) : (Command.ofWord w).a.toNat = w.toNat / 2 ^ 16 % 2 ^ 64 := by
  rw [Command.ofWord, BitVec.extractLsb'_toNat, Nat.shiftRight_eq_div_pow]

theorem ofWord_b_toNat (w : CommandWord) : (Command.ofWord w).b.toNat = w.toNat % 2 ^ 16 := by
  rw [Command.ofWord, BitVec.extractLsb'_toNat, Nat.shiftRight_zero]

theorem Command.eq_of_toNat_eq {c c' : Command} (hop : c.op.toNat = c'.op.toNat) (ha : c.a.toNat = c'.a.toNat)
    (hb : c.b.toNat = c'.b.toNat) : c = c' := by
  cases c; cases c'
  rw [Command.mk.injEq]
  exact ⟨BitVec.eq_of_toNat_eq hop, BitVec.eq_of_toNat_eq ha, BitVec.eq_of_toNat_eq hb⟩

/-- R50: no port's value in the sum carries into the next field. -/
theorem ofWord_toWord (c : Command) : Command.ofWord c.toWord = c := by
  apply Command.eq_of_toNat_eq
  · rw [ofWord_op_toNat, toWord_toNat]; omega
  · rw [ofWord_a_toNat, toWord_toNat]; omega
  · rw [ofWord_b_toNat, toWord_toNat]; omega

/-- R50: the three fields are all of the word. -/
theorem toWord_ofWord (w : CommandWord) : (Command.ofWord w).toWord = w := by
  apply BitVec.eq_of_toNat_eq
  rw [toWord_toNat, ofWord_op_toNat, ofWord_a_toNat, ofWord_b_toNat]
  omega

/-- Settles O10: on the word, the ports are read back first. -/
theorem decodeOfEncodeIsIdentity : Obligations.DecodeOfEncodeIsIdentity := by
  refine fun i => ⟨decode_encode i, ?_⟩
  rw [decodeWord, encodeWord, ofWord_toWord, decode_encode]

/-- Settles O12: both directions, and the sum. -/
theorem commandWordHoldsThePorts : Obligations.CommandWordHoldsThePorts :=
  ⟨fun c => ⟨ofWord_toWord c, toWord_toNat c⟩, toWord_ofWord⟩

/-- Settles O14: the decoder reads an operation of the code where it is not reserved, and rejects no encoded operation. -/
theorem codesAreReservedOrNameAnOperation : Obligations.CodesAreReservedOrNameAnOperation := by
  refine fun op => ⟨fun hop => ?_, ?_⟩
  · obtain ⟨i, -, hi⟩ := decode_of_not_reserved (c := ⟨op, 0, 0⟩) hop
    exact ⟨i, hi⟩
  · rintro ⟨i, rfl⟩
    obtain ⟨-, herror⟩ | ⟨hop, -⟩ := decode_cases (encode i)
    · rw [decode_encode] at herror; cases herror
    · exact hop

/-- Settles O15: each word's fields are literals. -/
theorem scriptCommandWordsDecode : Obligations.ScriptCommandWordsDecode :=
  ⟨rfl, rfl, rfl, rfl, rfl, rfl⟩

/-- R53, R55: the format column is a function of the code. -/
theorem format_eq_of_code (i : Instr) :
    i.format = if i.code = 0x01 then .U32 else if i.code = 0x03 then .U64
      else if i.code.toNat < 0x0B then .U16 else .B16 := by
  cases i <;> rfl

/-- Settles O11: for each code, the operand the decoder reads is the slice that `readBits` keeps for its format. -/
theorem encodeOfDecodeKeepsTheBitsRead : Obligations.EncodeOfDecodeKeepsTheBitsRead := by
  rintro ⟨⟨n, hn⟩, a, b⟩ i h
  interval_cases n <;> cases h <;> simp [Instr.format] <;> rfl

/-- The decoder looks at no bit that the format of the operation it answers does not read. -/
theorem decode_eq_of_readBits_eq {c c' : Command} {i : Instr} (h : decode c = .ok i)
    (hbits : c'.readBits i.format = c.readBits i.format) : decode c' = .ok i := by
  have hc : encode i = c.readBits i.format := encodeOfDecodeKeepsTheBitsRead c i h
  have hcode : i.code = c'.op := by
    calc i.code = (c.readBits i.format).op := congrArg Command.op hc
      _ = (c'.readBits i.format).op := by rw [hbits]
  obtain ⟨j, hj, hjcode⟩ := decode_of_not_reserved ((codesAreReservedOrNameAnOperation c'.op).mpr ⟨i, hcode⟩)
  have hformat : j.format = i.format := by rw [format_eq_of_code, format_eq_of_code, hjcode, hcode]
  have hencode : encode j = encode i := by
    rw [encodeOfDecodeKeepsTheBitsRead c' j hj, hformat, hbits, hc]
  rw [hj, ← decode_encode j, hencode, decode_encode]

/-- Commands that decode to one operation have one output. -/
theorem output_eq_of_decode {c c' : Command} {i : Instr} (h : decode c = .ok i) (h' : decode c' = .ok i) :
    output c' = output c :=
  output_of_exec h' ((output_of_decode h).2 (inputsOf c'))

/-- Settles O13: both commands decode to the same operation, whose output each presented command shows and each step keeps. -/
theorem unreadBitsDoNotChangeTheResult : Obligations.UnreadBitsDoNotChangeTheResult := by
  intro s c c' i h hbits
  have h' : decode c' = .ok i := decode_eq_of_readBits_eq h hbits
  have hout : output c' = output c := output_eq_of_decode h h'
  refine ⟨output c, step_present h s, ?_, rfl, hout⟩
  rw [← hout]
  exact step_present h' s

end Sys2Proof.Machine
end

section
/-! PROOF. The host's scripts (spec/20_memory.md R45; spec/70_reset_and_hazards.md R192, R196): what is read from a
transaction is a function of its command alone. -/

namespace Sys2Proof.Machine

/-- What the host reads from one transaction, from any state: the output of a command that decodes, nothing from a
reserved code. -/
def readAnswer (c : Command) : Option PortR :=
  match decode c with
  | .ok _ => some (output c)
  | .error _ => none

theorem readAnswer_of_decode {c : Command} {i : Instr} (h : decode c = .ok i) : readAnswer c = some (output c) := by
  rw [readAnswer, h]

theorem readAnswer_of_reject {c : Command} {q : Reject} (h : decode c = .error q) : readAnswer c = none := by
  rw [readAnswer, h]

/-- A script reads the answer of each of its commands, whatever the ports carried before it. -/
theorem runScript_eq_map (s : State) (cs : List Command) : s.runScript cs = cs.map readAnswer := by
  induction cs generalizing s with
  | nil => rfl
  | cons c cs ih =>
    obtain ⟨-, herror⟩ | ⟨-, i, hi, -⟩ := decode_cases c
    · have hstep : s.transact c = .refused (.reservedOp c.op) := step_of_decode_error (s := s.present c) herror
      rw [State.runScript, hstep, List.map_cons, readAnswer_of_reject herror, ← ih]
    · have hstep : s.transact c = .next (s.present c) := step_present hi s
      rw [State.runScript, hstep, List.map_cons, readAnswer_of_decode hi, ← ih]
      rfl

/-- Settles O8: scripts are maps of one function over the list, so permuting and splitting the list does the same to the
results. -/
theorem scriptResultsDoNotDependOnOrderOrInstance : Obligations.ScriptResultsDoNotDependOnOrderOrInstance := by
  refine ⟨fun s s' cs cs' hperm => ?_, fun s s' cs cs' => ?_⟩
  · rw [runScript_eq_map, runScript_eq_map, ← List.map_prod_left_eq_zip, ← List.map_prod_left_eq_zip]
    exact hperm.map _
  · rw [runScript_eq_map, runScript_eq_map, runScript_eq_map, List.map_append]

/-- The command with a no-NaN code replaced by that of the general comparison, 8 below it. -/
def toGeneral (c : Command) : Command :=
  if c.op.toNat ≥ 0x18 then { c with op := c.op - 8 } else c

/-- R141: under the contract a no-NaN comparison drives what the general one drives. -/
theorem drive_nonan {x y : Half} (h : (!isNaN16 x && !isNaN16 y) = true) (op : OpCode) (general : Half → Half → Bool)
    (s : State) :
    s.drive (placeBool (nonan Config.nonanUnspec op general x y)) = s.drive (placeBool (general x y)) := by
  rw [nonan, if_pos h]

/-- Commands whose operations do the same have the same answer. -/
theorem readAnswer_eq_of_exec_eq {c c' : Command} {i j : Instr} (h : decode c = .ok i) (h' : decode c' = .ok j)
    (hexec : ∀ s, exec i s = exec j s) : readAnswer c' = readAnswer c := by
  have hout : output c' = output c := output_of_exec h' ((hexec _).symm.trans ((output_of_decode h).2 (inputsOf c')))
  rw [readAnswer_of_decode h, readAnswer_of_decode h', hout]

/-- R55: the codes from 0x18 on, the six no-NaN comparisons first. -/
theorem opCode_ge_24_cases : ∀ op : OpCode, op.toNat ≥ 0x18 →
    op = 0x18 ∨ op = 0x19 ∨ op = 0x1A ∨ op = 0x1B ∨ op = 0x1C ∨ op = 0x1D ∨ isReserved op = true := by
  decide

theorem safeCommand_not_reserved {c : Command} (h : safeCommand c = true) : isReserved c.op = false := by
  obtain ⟨-, herror⟩ | ⟨hop, -⟩ := decode_cases c
  · rw [safeCommand, herror] at h; cases h
  · exact hop

/-- R196: for each no-NaN code, the contract makes its answer that of the code 8 below it; the other codes are kept. -/
theorem readAnswer_toGeneral {c : Command} (h : safeCommand c = true) : readAnswer (toGeneral c) = readAnswer c := by
  by_cases hcode : c.op.toNat ≥ 0x18
  · obtain ⟨op, a, b⟩ := c
    rw [toGeneral, if_pos hcode]
    change readAnswer ⟨op - 8, a, b⟩ = _
    obtain rfl | rfl | rfl | rfl | rfl | rfl | hreserved := opCode_ge_24_cases op hcode
    · exact readAnswer_eq_of_exec_eq (j := .eq _ _) rfl rfl (drive_nonan h 0x18 feq)
    · exact readAnswer_eq_of_exec_eq (j := .ne _ _) rfl rfl (drive_nonan h 0x19 fne)
    · exact readAnswer_eq_of_exec_eq (j := .lt _ _) rfl rfl (drive_nonan h 0x1A flt)
    · exact readAnswer_eq_of_exec_eq (j := .le _ _) rfl rfl (drive_nonan h 0x1B fle)
    · exact readAnswer_eq_of_exec_eq (j := .gt _ _) rfl rfl (drive_nonan h 0x1C fgt)
    · exact readAnswer_eq_of_exec_eq (j := .ge _ _) rfl rfl (drive_nonan h 0x1D fge)
    · exact absurd (hreserved.symm.trans (safeCommand_not_reserved h)) (by decide)
  · rw [toGeneral, if_neg hcode]

theorem readAnswer_isSome_of_safe {c : Command} (h : safeCommand c = true) : (readAnswer c).isSome = true := by
  obtain ⟨i, hi, -⟩ := decode_of_not_reserved (safeCommand_not_reserved h)
  rw [readAnswer_of_decode hi, Option.isSome_some]

/-- Settles O9: a script is a map, and each answer of a safe list is some, and that of the general code. -/
theorem safeScriptsAreAnswered : Obligations.SafeScriptsAreAnswered := by
  intro s cs hsafe
  have hcommand : ∀ c ∈ cs, safeCommand c = true := List.all_eq_true.mp hsafe
  change s.runScript cs = s.runScript (cs.map toGeneral) ∧ _
  rw [runScript_eq_map, runScript_eq_map, List.map_map, List.length_map, List.forall_mem_map]
  exact ⟨List.map_congr_left fun c hc => (readAnswer_toGeneral (hcommand c hc)).symm, rfl,
    fun c hc => readAnswer_isSome_of_safe (hcommand c hc)⟩

end Sys2Proof.Machine
end

section
/-! PROOF. The codec core and the classes of spec/40_codec_core.md (R76, R79), and the sign (R126, R153). -/

namespace Sys2Proof.Machine

/-- R76: `pack16_fields16` at the float64 positions. -/
theorem pack64_fields64 (d : F64) : pack64 (fields64 d).s (fields64 d).E (fields64 d).M = d := by
  apply BitVec.eq_of_toNat_eq
  rw [pack64_toNat (fields64_s_lt d) (fields64_E_lt d) (fields64_M_lt d), fields64_s, fields64_E, fields64_M]
  omega

/-- R76: `fields16_pack16` at the float64 positions. -/
theorem fields64_pack64 {s E M : Nat} (hs : s < 2) (hE : E < 2048) (hM : M < 4503599627370496) :
    fields64 (pack64 s E M) = ⟨s, E, M⟩ := by
  rw [Fields.eq_mk_iff, fields64_s, fields64_E, fields64_M, pack64_toNat hs hE hM]
  omega

/-- Settles O17: the two directions. -/
theorem packAndSplit64AreInverse : Obligations.PackAndSplit64AreInverse :=
  ⟨pack64_fields64, fun _ _ _ hs hE hM =>
    fields64_pack64 (Nat.lt_succ_of_le hs) (Nat.lt_succ_of_le hE) (Nat.lt_succ_of_le hM)⟩

theorem isSubnormal16_iff (h : Half) : isSubnormal16 h = true ↔ (fields16 h).E = 0 ∧ (fields16 h).M ≠ 0 := by
  rw [isSubnormal16, Bool.and_eq_true, beq_iff_eq, bne_iff_ne]

theorem isNormal16_iff (h : Half) : isNormal16 h = true ↔ (fields16 h).E ≠ 0 ∧ (fields16 h).E ≠ 0x1F := by
  rw [isNormal16, Bool.and_eq_true, bne_iff_ne, bne_iff_ne]

/-- R79, the zeros. -/
theorem Fields.fpClass_eq_zero_iff {emax : Nat} {F : Fields} : F.fpClass emax = .zero ↔ F.E = 0 ∧ F.M = 0 := by
  unfold fpClass; split_ifs <;> simp [*]; omega

/-- R79, the subnormals. -/
theorem Fields.fpClass_eq_subnormal_iff {emax : Nat} {F : Fields} :
    F.fpClass emax = .subnormal ↔ F.E = 0 ∧ F.M ≠ 0 := by
  unfold fpClass; split_ifs <;> simp [*]; omega

/-- R79, the normals. -/
theorem Fields.fpClass_eq_normal_iff {emax : Nat} {F : Fields} :
    F.fpClass emax = .normal ↔ F.E ≠ 0 ∧ F.E ≠ emax := by
  unfold fpClass; split_ifs <;> simp [*]

/-- R79, the infinities. -/
theorem Fields.fpClass_eq_infinity_iff {emax : Nat} (hemax : emax ≠ 0) {F : Fields} :
    F.fpClass emax = .infinity ↔ F.E = emax ∧ F.M = 0 := by
  unfold fpClass; split_ifs <;> simp [*]; omega

/-- R79, the NaN. -/
theorem Fields.fpClass_eq_nan_iff {emax : Nat} (hemax : emax ≠ 0) {F : Fields} :
    F.fpClass emax = .nan ↔ F.E = emax ∧ F.M ≠ 0 := by
  unfold fpClass; split_ifs <;> simp [*]; omega

theorem isInf16_iff_fields (h : Half) : isInf16 h = true ↔ (fields16 h).E = 0x1F ∧ (fields16 h).M = 0 := by
  rw [isInf16, Bool.and_eq_true, beq_iff_eq, beq_iff_eq]

theorem isNaN16_iff_fields (h : Half) : isNaN16 h = true ↔ (fields16 h).E = 0x1F ∧ (fields16 h).M ≠ 0 := by
  rw [isNaN16, Bool.and_eq_true, beq_iff_eq, bne_iff_ne]

theorem isZero16_iff_fields (h : Half) : isZero16 h = true ↔ (fields16 h).E = 0 ∧ (fields16 h).M = 0 := by
  rw [isZero16_iff, fields16_E, fields16_M]
  omega

/-- Settles O29: each predicate tests the fields by which R79 gives its class. -/
theorem eachHalfHasOneClass : Obligations.EachHalfHasOneClass := fun h =>
  ⟨(isZero16_iff_fields h).trans Fields.fpClass_eq_zero_iff.symm,
    (isSubnormal16_iff h).trans Fields.fpClass_eq_subnormal_iff.symm,
    (isNormal16_iff h).trans Fields.fpClass_eq_normal_iff.symm,
    (isInf16_iff_fields h).trans (Fields.fpClass_eq_infinity_iff (by decide)).symm,
    (isNaN16_iff_fields h).trans (Fields.fpClass_eq_nan_iff (by decide)).symm⟩

/-- R25: a half on `r` is known from it, so an answer fixes the half an operation drives. -/
theorem eq_of_drive_placeHalf {s : State} {v h : Half} (hs : s.drive (placeHalf v) = .next { s with r := h.setWidth 64 }) :
    h = v := by
  have hr : h.setWidth 64 = v.setWidth 64 := congrArg State.r (State.drive_eq_next_iff.mp hs)
  rw [← setWidth_zeroExtend (by decide) h, hr, setWidth_zeroExtend (by decide)]

/-- R150 leaves the magnitude. -/
theorem neg16_toNat_mod (h : Half) : (neg16 h).toNat % 32768 = h.toNat % 32768 := by
  rw [← and_0x7FFF_toNat, ← and_0x7FFF_toNat]
  congr 1
  exact BitVec.eq_of_getLsbD_eq fun j _ => by
    rw [BitVec.getLsbD_and, BitVec.getLsbD_and, getLsbD_neg16, getLsbD_magnitudeMask]
    by_cases hj : j < 15 <;> simp [hj, Nat.ne_of_lt]

/-- R151 leaves the magnitude alone. -/
theorem abs16_toNat (h : Half) : (abs16 h).toNat = h.toNat % 32768 := and_0x7FFF_toNat h

theorem abs16_toNat_mod (h : Half) : (abs16 h).toNat % 32768 = h.toNat % 32768 := by
  rw [abs16_toNat, Nat.mod_mod]

/-- R126: a predicate other than SIGNBIT looks at the magnitude alone. -/
theorem predicates_eq_of_magnitude_eq {h n : Half} (hmag : n.toNat % 32768 = h.toNat % 32768) :
    isZero16 n = isZero16 h ∧ isNaN16 n = isNaN16 h ∧ isInf16 n = isInf16 h ∧ isFinite16 n = isFinite16 h := by
  refine ⟨?_, ?_, ?_, ?_⟩ <;> rw [Bool.eq_iff_iff]
  · rw [isZero16_iff, isZero16_iff, hmag]
  · rw [isNaN16_iff, isNaN16_iff, hmag]
  · rw [isInf16_iff, isInf16_iff, hmag]
  · rw [isFinite16_iff, isFinite16_iff, hmag]

/-- R124: the sign is bit 15. -/
theorem sign16_eq_msb (h : Half) : sign16 h = h.msb := by
  rw [Bool.eq_iff_iff, sign16_iff, BitVec.msb_eq_decide, decide_eq_true_eq]

theorem msb_neg16 (h : Half) : (neg16 h).msb = !h.msb := by
  rw [BitVec.msb_eq_getLsbD_last, BitVec.msb_eq_getLsbD_last, getLsbD_neg16]; simp

theorem msb_abs16 (h : Half) : (abs16 h).msb = false := by
  rw [BitVec.msb_eq_getLsbD_last, getLsbD_abs16]; simp

/-- Settles O30: NEG and ABS keep the magnitude, and set bit 15 as their lemmas say. -/
theorem predicatesUnderNegAndAbs : Obligations.PredicatesUnderNegAndAbs := by
  intro h n m s hn hm
  obtain rfl : n = neg16 h := eq_of_drive_placeHalf hn
  obtain rfl : m = abs16 h := eq_of_drive_placeHalf hm
  obtain ⟨nzero, nnan, ninf, nfinite⟩ := predicates_eq_of_magnitude_eq (neg16_toNat_mod h)
  obtain ⟨mzero, mnan, minf, mfinite⟩ := predicates_eq_of_magnitude_eq (abs16_toNat_mod h)
  refine ⟨⟨drive_placeBool_congr nzero s, drive_placeBool_congr mzero s⟩,
    ⟨drive_placeBool_congr nnan s, drive_placeBool_congr mnan s⟩,
    ⟨drive_placeBool_congr ninf s, drive_placeBool_congr minf s⟩,
    ⟨drive_placeBool_congr nfinite s, drive_placeBool_congr mfinite s⟩, ?_, ?_⟩
  · change s.drive (placeBool (sign16 (neg16 h))) = _
    rw [sign16_eq_msb, msb_neg16]
    cases h.msb <;> rfl
  · change s.drive (placeBool (sign16 (abs16 h))) = _
    rw [sign16_eq_msb, msb_abs16]
    rfl

theorem neg16_neg16 (h : Half) : neg16 (neg16 h) = h := by
  rw [neg16, neg16, BitVec.xor_assoc, BitVec.xor_self, BitVec.xor_zero]

/-- Bit 15 of a half, and the others, say which half it is. -/
theorem half_eq_of_bits {v w : Half} (hlow : ∀ j, j < 15 → v.getLsbD j = w.getLsbD j)
    (htop : v.getLsbD 15 = w.getLsbD 15) : v = w := by
  refine BitVec.eq_of_getLsbD_eq fun j hj => ?_
  obtain hlt | rfl : j < 15 ∨ j = 15 := by omega
  · exact hlow j hlt
  · exact htop

theorem abs16_abs16 (h : Half) : abs16 (abs16 h) = abs16 h := by
  rw [abs16, abs16, BitVec.and_assoc, BitVec.and_self]

/-- R153: ABS drops the bit that NEG flips. -/
theorem abs16_neg16 (h : Half) : abs16 (neg16 h) = abs16 h :=
  half_eq_of_bits (fun j hj => by simp [getLsbD_abs16, getLsbD_neg16, hj.ne]) (by rw [getLsbD_abs16, getLsbD_abs16]; simp)

/-- R152: COPYSIGN takes bit 15 of its second operand. -/
theorem eq_copysign16 {v x y : Half} (hlow : ∀ j, j < 15 → v.getLsbD j = x.getLsbD j)
    (htop : v.getLsbD 15 = y.getLsbD 15) : v = copysign16 x y :=
  half_eq_of_bits (fun j hj => by simp [getLsbD_copysign16, hlow j hj, hj, hj.ne]) (by rw [getLsbD_copysign16, htop]; simp)

/-- Settles O32: NEG and ABS undo or absorb each other, and each half named is a COPYSIGN by its low bits and its bit 15. -/
theorem signOperationRelations : Obligations.SignOperationRelations := by
  intro h n m s hn hm
  obtain rfl : n = neg16 h := eq_of_drive_placeHalf hn
  obtain rfl : m = abs16 h := eq_of_drive_placeHalf hm
  refine ⟨drive_placeHalf_congr (neg16_neg16 h) s, drive_placeHalf_congr (abs16_abs16 h) s,
    drive_placeHalf_congr (abs16_neg16 h) s, drive_placeHalf_congr ?_ s, drive_placeHalf_congr ?_ s,
    drive_placeHalf_congr ?_ s⟩
  · exact eq_copysign16 (fun j hj => by simp [getLsbD_abs16, hj]) (by rw [getLsbD_abs16]; simp)
  · exact eq_copysign16 (fun j hj => by simp [getLsbD_neg16, hj.ne]) rfl
  · exact (eq_copysign16 (fun _ _ => rfl) rfl).symm

end Sys2Proof.Machine
end

section
/-! PROOF. The comparison relations and the no-NaN contract of spec/43_comparison.md (R132 to R146). -/

namespace Sys2Proof.Machine

/-- R132. -/
theorem feq_iff (x y : Half) : feq x y = true ↔ isNaN16 x = false ∧ isNaN16 y = false ∧ key16 x = key16 y := by
  obtain ⟨hnan, hcmp⟩ | ⟨hx, hy, ⟨hlt, hcmp⟩ | ⟨heq, hcmp⟩ | ⟨hgt, hcmp⟩⟩ :=
    cmp16_cases x y <;> rw [feq, hcmp]
  · obtain h | h := hnan <;> simp [h]
  · simp [hlt.ne]
  · simp [hx, hy, heq]
  · simp [hgt.ne']

/-- R134. -/
theorem flt_iff (x y : Half) : flt x y = true ↔ isNaN16 x = false ∧ isNaN16 y = false ∧ key16 x < key16 y := by
  obtain ⟨hnan, hcmp⟩ | ⟨hx, hy, ⟨hlt, hcmp⟩ | ⟨heq, hcmp⟩ | ⟨hgt, hcmp⟩⟩ :=
    cmp16_cases x y <;> rw [flt, hcmp]
  · obtain h | h := hnan <;> simp [h]
  · simp [hx, hy, hlt]
  · simp [heq]
  · simp [hgt.le]

/-- R136. -/
theorem fgt_iff (x y : Half) : fgt x y = true ↔ isNaN16 x = false ∧ isNaN16 y = false ∧ key16 y < key16 x := by
  obtain ⟨hnan, hcmp⟩ | ⟨hx, hy, ⟨hlt, hcmp⟩ | ⟨heq, hcmp⟩ | ⟨hgt, hcmp⟩⟩ :=
    cmp16_cases x y <;> rw [fgt, hcmp]
  · obtain h | h := hnan <;> simp [h]
  · simp [hlt.le]
  · simp [heq]
  · simp [hx, hy, hgt]

/-- R135, R139: LE is LT or EQ. -/
theorem fle_eq (x y : Half) : fle x y = (flt x y || feq x y) := rfl

/-- R137, R139: GE is GT or EQ. -/
theorem fge_eq (x y : Half) : fge x y = (fgt x y || feq x y) := rfl

theorem fle_iff (x y : Half) : fle x y = true ↔ isNaN16 x = false ∧ isNaN16 y = false ∧ key16 x ≤ key16 y := by
  rw [fle_eq, Bool.or_eq_true, flt_iff, feq_iff, Int.le_iff_lt_or_eq, ← and_or_left, ← and_or_left]

theorem fge_iff (x y : Half) : fge x y = true ↔ isNaN16 x = false ∧ isNaN16 y = false ∧ key16 y ≤ key16 x := by
  rw [fge_eq, Bool.or_eq_true, fgt_iff, feq_iff, Int.le_iff_lt_or_eq, ← and_or_left, ← and_or_left,
    eq_comm (a := key16 x)]

/-- R139: exchanging the operands exchanges the NaN tests and turns the order of the keys. -/
theorem fgt_eq_flt_swap (x y : Half) : fgt x y = flt y x := by
  rw [Bool.eq_iff_iff, fgt_iff, flt_iff, and_left_comm]

theorem feq_comm (x y : Half) : feq x y = feq y x := by
  rw [Bool.eq_iff_iff, feq_iff, feq_iff, and_left_comm, eq_comm (a := key16 x)]

/-- R139: the four outcomes exclude each other and leave none out. -/
theorem cmp16_one_outcome (x y : Half) :
    (flt x y).toNat + (feq x y).toNat + (fgt x y).toNat + (isNaN16 x || isNaN16 y).toNat = 1 := by
  obtain ⟨hnan, hcmp⟩ | ⟨hx, hy, ⟨-, hcmp⟩ | ⟨-, hcmp⟩ | ⟨-, hcmp⟩⟩ := cmp16_cases x y <;>
    rw [flt, feq, fgt, hcmp]
  · rw [← Bool.or_eq_true] at hnan
    rw [hnan]; rfl
  all_goals rw [hx, hy]; rfl

/-- Settles O35: each comparison drives the Boolean its lemma above relates to the others. -/
theorem comparisonRelations : Obligations.ComparisonRelations := by
  refine fun x y s => ⟨flt x y, feq x y, fgt x y, rfl, rfl, rfl, ?_, rfl, rfl, ?_, ?_, ?_, cmp16_one_outcome x y⟩
  · change s.drive (placeBool (!feq x y)) = _
    cases feq x y <;> rfl
  · exact drive_placeBool_congr (fgt_eq_flt_swap x y) s
  · refine drive_placeBool_congr ?_ s
    rw [fge_eq, fle_eq, fgt_eq_flt_swap, feq_comm]
  · exact drive_placeBool_congr (feq_comm x y) s

/-- R141: with no NaN operand a no-NaN comparison drives what the general one drives; at all events it drives a Boolean. -/
theorem nonan_meets_contract (x y : Half) (s : State) (op : OpCode) (general : Half → Half → Bool) :
    (∃ v : Bool, s.drive (placeBool (nonan Config.nonanUnspec op general x y)) = .next { s with r := if v then 1 else 0 }) ∧
    (isNaN16 x = false → isNaN16 y = false →
      s.drive (placeBool (nonan Config.nonanUnspec op general x y)) = s.drive (placeBool (general x y))) := by
  refine ⟨⟨_, rfl⟩, fun hx hy => drive_nonan ?_ op general s⟩
  rw [hx, hy]; rfl

/-- Settles O36: the one contract, at each code with its general comparison. -/
theorem nonanComparisonsMeetTheirContract : Obligations.NonanComparisonsMeetTheirContract := fun x y s =>
  ⟨nonan_meets_contract x y s 0x18 feq, nonan_meets_contract x y s 0x19 fne, nonan_meets_contract x y s 0x1A flt,
    nonan_meets_contract x y s 0x1B fle, nonan_meets_contract x y s 0x1C fgt, nonan_meets_contract x y s 0x1D fge⟩

end Sys2Proof.Machine
end

section
/-! PROOF. NEXTAFTER as one step of the key (spec/45_nextafter.md R160, R161). -/

namespace Sys2Proof.Machine

/-- R131 at a clear sign bit. -/
theorem key16_of_lt {h : Half} (hlt : h.toNat < 32768) : key16 h = h.toNat := by
  have hs : sign16 h = false := by rw [← Bool.not_eq_true, sign16_iff]; omega
  rw [key16_of_not_sign hs, Nat.mod_eq_of_lt hlt]

/-- R131 at a set sign bit. -/
theorem key16_of_ge {h : Half} (hge : 32768 ≤ h.toNat) : key16 h = 32768 - (h.toNat : Int) := by
  rw [key16_of_sign ((sign16_iff h).mpr hge)]
  omega

theorem key16_natAbs (h : Half) : (key16 h).natAbs = h.toNat % 32768 := by
  obtain hs | hs := Nat.lt_or_ge h.toNat 32768
  · rw [key16_of_lt hs]; omega
  · rw [key16_of_ge hs]; omega

/-- R131: the halves that are no NaN are those with a key between those of the infinities. -/
theorem isNaN16_eq_false_iff (h : Half) : isNaN16 h = false ↔ -31744 ≤ key16 h ∧ key16 h ≤ 31744 := by
  rw [← Bool.not_eq_true, isNaN16_iff, ← key16_natAbs]
  omega

theorem isZero16_iff_key (h : Half) : isZero16 h = true ↔ key16 h = 0 := by
  rw [isZero16_iff, ← key16_natAbs, Int.natAbs_eq_zero]

theorem isFinite16_iff_key (h : Half) : isFinite16 h = true ↔ -31744 < key16 h ∧ key16 h < 31744 := by
  rw [isFinite16_iff, ← key16_natAbs]
  omega

/-- R131: only the two zeros share a key. -/
theorem eq_of_key16_eq {x y : Half} (hkey : key16 x = key16 y) (hx : key16 x ≠ 0) : x = y := by
  apply BitVec.eq_of_toNat_eq
  obtain hsx | hsx := Nat.lt_or_ge x.toNat 32768 <;> obtain hsy | hsy := Nat.lt_or_ge y.toNat 32768
  · rw [key16_of_lt hsx, key16_of_lt hsy] at hkey; omega
  · rw [key16_of_lt hsx] at hx hkey; rw [key16_of_ge hsy] at hkey; omega
  · rw [key16_of_ge hsx] at hx hkey; rw [key16_of_lt hsy] at hkey; omega
  · rw [key16_of_ge hsx, key16_of_ge hsy] at hkey; omega

/-- What a step of the key by `d` makes of `x`: a zero keeps the sign of `x`. -/
def KeyStep (x z : Half) (d : Int) : Prop :=
  isNaN16 z = false ∧ key16 z = key16 x + d ∧ (key16 z = 0 → z.msb = x.msb)

/-- A pattern on the same side of the sign bit, with the stepped key in range. -/
theorem keyStep_of_key {x z : Half} {d : Int} (hside : 32768 ≤ z.toNat ↔ 32768 ≤ x.toNat) (hkey : key16 z = key16 x + d)
    (hrange : -31744 ≤ key16 x + d ∧ key16 x + d ≤ 31744) : KeyStep x z d := by
  refine ⟨?_, hkey, fun _ => ?_⟩
  · rw [isNaN16_eq_false_iff, hkey]; exact hrange
  · rw [← sign16_eq_msb, ← sign16_eq_msb, Bool.eq_iff_iff, sign16_iff, sign16_iff, hside]

/-- The next pattern has a magnitude one larger, so its key is one further from 0. -/
theorem keyStep_add_one {x : Half} {d : Int} (hd : d = if sign16 x then -1 else 1)
    (hrange : -31744 ≤ key16 x + d ∧ key16 x + d ≤ 31744) : KeyStep x (x + 1) d := by
  have hz : (x + 1).toNat = (x.toNat + 1) % 65536 := BitVec.toNat_add x 1
  obtain hs | hs := Nat.lt_or_ge x.toNat 32768
  · have hk := key16_of_lt hs
    have hs' : (x + 1).toNat < 32768 := by omega
    rw [if_neg (by rw [sign16_iff]; omega)] at hd
    exact keyStep_of_key (by omega) (by rw [key16_of_lt hs']; omega) hrange
  · have hk := key16_of_ge hs
    have hs' : 32768 ≤ (x + 1).toNat := by omega
    rw [if_pos ((sign16_iff x).mpr hs)] at hd
    exact keyStep_of_key (by omega) (by rw [key16_of_ge hs']; omega) hrange

/-- The pattern before has a magnitude one smaller, so its key is one nearer to 0. -/
theorem keyStep_sub_one {x : Half} {d : Int} (hd : d = if sign16 x then 1 else -1) (hzero : key16 x ≠ 0)
    (hrange : -31744 ≤ key16 x + d ∧ key16 x + d ≤ 31744) : KeyStep x (x - 1) d := by
  have hz : (x - 1).toNat = (65535 + x.toNat) % 65536 := BitVec.toNat_sub x 1
  obtain hs | hs := Nat.lt_or_ge x.toNat 32768
  · have hk := key16_of_lt hs
    have hs' : (x - 1).toNat < 32768 := by omega
    rw [if_neg (by rw [sign16_iff]; omega)] at hd
    exact keyStep_of_key (by omega) (by rw [key16_of_lt hs']; omega) hrange
  · have hk := key16_of_ge hs
    have hs' : 32768 ≤ (x - 1).toNat := by omega
    rw [if_pos ((sign16_iff x).mpr hs)] at hd
    exact keyStep_of_key (by omega) (by rw [key16_of_ge hs']; omega) hrange

/-- R160 case (1). -/
theorem nextafter_of_nan {x y : Half} (h : isNaN16 x = true ∨ isNaN16 y = true) : nextafter x y = nextafterNan x y :=
  if_pos ((Bool.or_eq_true _ _).mpr h)

section NoNaN

variable {x y : Half} (hx : isNaN16 x = false) (hy : isNaN16 y = false)
include hx hy

/-- R160 case (2). -/
theorem nextafter_of_key_eq (hkey : key16 x = key16 y) : nextafter x y = y := by
  rw [nextafter, hx, hy, if_neg (by decide), if_pos ((feq_iff x y).mpr ⟨hx, hy, hkey⟩)]

/-- R160 cases (3) and (4). -/
theorem nextafter_of_key_ne (hkey : key16 x ≠ key16 y) :
    nextafter x y = if isZero16 x then (if fgt y 0x0000#16 then 0x0001#16 else 0x8001#16) else stepPattern x y := by
  rw [nextafter, hx, hy, if_neg (by decide), if_neg]
  rw [feq_iff]
  exact fun h => hkey h.2.2

/-- R160 up: a zero steps to the smallest positive subnormal, any other half away from 0 or toward it as its sign says. -/
theorem keyStep_nextafter_up (hlt : key16 x < key16 y) : KeyStep x (nextafter x y) 1 := by
  have hxr := (isNaN16_eq_false_iff x).mp hx
  have hyr := (isNaN16_eq_false_iff y).mp hy
  rw [nextafter_of_key_ne hx hy hlt.ne]
  by_cases hzero : isZero16 x = true
  · have hkey := (isZero16_iff_key x).mp hzero
    have hpos : 0 < key16 y := hkey ▸ hlt
    have hgt : fgt y 0x0000#16 = true := (fgt_iff y _).mpr ⟨hy, by decide, hpos⟩
    rw [if_pos hzero, if_pos hgt]
    exact ⟨by decide, by rw [hkey]; decide, fun h => absurd h (by decide)⟩
  · have hgt : fgt x y = false := by
      rw [← Bool.not_eq_true, fgt_iff]; exact fun h => absurd h.2.2 hlt.le.not_gt
    rw [if_neg hzero, stepPattern, hgt]
    rw [isZero16_iff_key] at hzero
    cases hs : sign16 x
    · exact keyStep_add_one (by rw [hs]; rfl) (by omega)
    · exact keyStep_sub_one (by rw [hs]; rfl) hzero (by omega)

/-- R160 down: a zero steps to the smallest negative subnormal, any other half away from 0 or toward it as its sign says. -/
theorem keyStep_nextafter_down (hlt : key16 y < key16 x) : KeyStep x (nextafter x y) (-1) := by
  have hxr := (isNaN16_eq_false_iff x).mp hx
  have hyr := (isNaN16_eq_false_iff y).mp hy
  rw [nextafter_of_key_ne hx hy hlt.ne']
  by_cases hzero : isZero16 x = true
  · have hkey := (isZero16_iff_key x).mp hzero
    have hneg : key16 y < 0 := hkey ▸ hlt
    have hgt : ¬ fgt y 0x0000#16 = true := by
      rw [fgt_iff]; exact fun h => absurd h.2.2 hneg.le.not_gt
    rw [if_pos hzero, if_neg hgt]
    exact ⟨by decide, by rw [hkey]; decide, fun h => absurd h (by decide)⟩
  · rw [if_neg hzero, stepPattern, (fgt_iff x y).mpr ⟨hx, hy, hlt⟩]
    rw [isZero16_iff_key] at hzero
    cases hs : sign16 x
    · exact keyStep_sub_one (by rw [hs]; rfl) hzero (by omega)
    · exact keyStep_add_one (by rw [hs]; rfl) (by omega)

end NoNaN

/-- Settles O38: R160 by its cases, the last two by the direction of the step. -/
theorem nextafterStepsTheKey : Obligations.NextafterStepsTheKey := by
  intro x y s
  refine ⟨nextafter x y, rfl, fun hx => ?_, fun hx hy => ?_, fun hx hy => nextafter_of_key_eq hx hy,
    fun hx hy => keyStep_nextafter_up hx hy, fun hx hy => keyStep_nextafter_down hx hy⟩
  · rw [nextafter_of_nan (.inl hx), nextafterNan, if_pos hx]
  · rw [nextafter_of_nan (.inr hy), nextafterNan, hx, if_neg (by decide)]

theorem nextafter_self (h : Half) : nextafter h h = h := by
  cases hnan : isNaN16 h
  · exact nextafter_of_key_eq hnan hnan rfl
  · rw [nextafter_of_nan (.inl hnan), nextafterNan, if_pos hnan]

/-- Settles O39: NEXTAFTER drives `nextafter h h`. -/
theorem nextafterTowardItselfIsIdentity : Obligations.NextafterTowardItselfIsIdentity := fun h s =>
  drive_placeHalf_congr (nextafter_self h) s

/-- Settles O40: one step of the key up and one down; equal keys make EQ true, and away from the zeros the halves equal. -/
theorem stepUpThenDownReturns : Obligations.StepUpThenDownReturns := by
  intro x s hfinite
  obtain ⟨hmin, hmax⟩ := (isFinite16_iff_key x).mp hfinite
  have hx : isNaN16 x = false := (isNaN16_eq_false_iff x).mpr ⟨hmin.le, hmax.le⟩
  obtain ⟨hu, hup, -⟩ := keyStep_nextafter_up hx (y := 0x7C00) (by decide) hmax
  obtain ⟨hd, hdown, -⟩ := keyStep_nextafter_down hu (y := 0xFC00) (by decide)
    (by rw [hup]; exact lt_add_of_lt_of_pos hmin one_pos)
  have hkey : key16 (nextafter (nextafter x 0x7C00) 0xFC00) = key16 x := by rw [hdown, hup]; omega
  refine ⟨_, _, rfl, rfl, ?_, fun hzero _ => ?_⟩
  · have heq := (feq_iff _ _).mpr ⟨hd, hx, hkey⟩
    exact drive_placeBool_congr heq s
  · refine eq_of_key16_eq hkey ?_
    rw [hkey]
    exact fun h => absurd ((isZero16_iff_key x).mpr h) (by rw [hzero]; decide)

end Sys2Proof.Machine
end

section
/-! PROOF. The numbers of spec/40_codec_core.md R80 in the order of the keys: a finite pattern is a whole number of units, the
value of its format's smallest subnormal, and the count of units grows with the magnitude bits. -/

namespace Sys2Proof.Machine

/-- The count of units for the magnitude bits `n` of a format with `p` mantissa bits: the subnormals are counted by `n` itself,
and each exponent field doubles the distance between neighbours. -/
def units (p n : Nat) : Nat :=
  if n < 2 ^ p then n else (2 ^ p + n % 2 ^ p) * 2 ^ (n / 2 ^ p - 1)

theorem units_of_lt {p n : Nat} (h : n < 2 ^ p) : units p n = n := if_pos h

theorem units_of_fields {p e m : Nat} (he : 1 ≤ e) (hm : m < 2 ^ p) :
    units p (e * 2 ^ p + m) = (2 ^ p + m) * 2 ^ (e - 1) := by
  have hge : ¬ e * 2 ^ p + m < 2 ^ p := by
    have := Nat.mul_le_mul_right (2 ^ p) he
    omega
  have hdiv : (e * 2 ^ p + m) / 2 ^ p = e := by
    rw [Nat.add_comm, Nat.add_mul_div_right _ _ (Nat.two_pow_pos p), Nat.div_eq_of_lt hm, Nat.zero_add]
  have hmod : (e * 2 ^ p + m) % 2 ^ p = m := by
    rw [Nat.add_comm, Nat.add_mul_mod_self_right, Nat.mod_eq_of_lt hm]
  rw [units, if_neg hge, hdiv, hmod]

/-- The formula of an exponent field holds up to the first pattern of the next one. -/
theorem units_of_fields_le {p e m : Nat} (he : 1 ≤ e) (hm : m ≤ 2 ^ p) :
    units p (e * 2 ^ p + m) = (2 ^ p + m) * 2 ^ (e - 1) := by
  obtain hlt | rfl := Nat.lt_or_eq_of_le hm
  · exact units_of_fields he hlt
  · have hcarry : e * 2 ^ p + 2 ^ p = (e + 1) * 2 ^ p + 0 := by ring
    obtain ⟨d, rfl⟩ := Nat.exists_eq_add_of_le' he
    rw [hcarry, units_of_fields (by omega) (Nat.two_pow_pos p), Nat.add_sub_cancel, Nat.add_sub_cancel, Nat.pow_succ]
    ring

theorem units_of_le {p n : Nat} (h : n ≤ 2 ^ p) : units p n = n := by
  obtain hlt | rfl := Nat.lt_or_eq_of_le h
  · exact units_of_lt hlt
  · have hone := units_of_fields (p := p) (m := 0) (Nat.le_refl 1) (Nat.two_pow_pos p)
    simpa using hone

/-- Neighbours in the magnitude bits are in one order with their numbers of units. -/
theorem units_strictMono (p : Nat) : StrictMono (units p) := by
  refine strictMono_nat_of_lt_succ fun n => ?_
  obtain hlt | hge := Nat.lt_or_ge n (2 ^ p)
  · rw [units_of_lt hlt, units_of_le hlt]
    exact Nat.lt_succ_self n
  · have hm : n % 2 ^ p < 2 ^ p := Nat.mod_lt _ (Nat.two_pow_pos p)
    have he : 1 ≤ n / 2 ^ p := Nat.div_pos hge (Nat.two_pow_pos p)
    rw [← Nat.div_add_mod' n (2 ^ p), Nat.add_assoc, units_of_fields he hm, units_of_fields_le he hm]
    exact Nat.mul_lt_mul_of_pos_right (by omega) (Nat.two_pow_pos _)

/-- A key of any format as a signed count of units. -/
def signedUnits (p : Nat) (k : Int) : Int :=
  if k < 0 then -(units p k.natAbs : Int) else units p k.natAbs

theorem signedUnits_strictMono (p : Nat) : StrictMono (signedUnits p) := by
  intro k l hkl
  have hmono := units_strictMono p
  unfold signedUnits
  split_ifs with hk hl hl
  · have := hmono (show l.natAbs < k.natAbs by omega); omega
  · have := hmono (show 0 < k.natAbs by omega); omega
  · omega
  · have := hmono (show k.natAbs < l.natAbs by omega); omega

theorem signedUnits_natCast (p n : Nat) : signedUnits p n = units p n := by
  rw [signedUnits, if_neg (by omega), Int.natAbs_natCast]

theorem signedUnits_neg_natCast (p n : Nat) : signedUnits p (-n) = -units p n := by
  unfold signedUnits
  split_ifs with hn
  · rw [Int.natAbs_neg, Int.natAbs_natCast]
  · obtain rfl : n = 0 := by omega
    rw [Nat.cast_zero, neg_zero, Int.natAbs_zero, units_of_lt (Nat.two_pow_pos p)]
    rfl

/-- The all-ones exponent field, the bias and the mantissa width of a format (R70). -/
structure FpFormat where
  emax : Nat
  bias : Int
  p : Nat

def binary16 : FpFormat := ⟨0x1F, bias16, 10⟩
def binary32 : FpFormat := ⟨0xFF, bias32, 23⟩

/-- The magnitude bits of infinity. -/
def FpFormat.inf (φ : FpFormat) : Nat := φ.emax * 2 ^ φ.p

/-- The value of the smallest subnormal. -/
def FpFormat.unit (φ : FpFormat) : ℚ := 2 ^ (1 - φ.bias - φ.p)

theorem FpFormat.unit_pos (φ : FpFormat) : 0 < φ.unit := zpow_pos two_pos _

/-- The magnitude bits of a pattern, from its fields. -/
def Fields.mag (p : Nat) (F : Fields) : Nat := F.E * 2 ^ p + F.M

/-- The key of R131 for any format, from the fields. -/
def Fields.key (p : Nat) (F : Fields) : Int := if F.s = 1 then -(F.mag p : Int) else F.mag p

/-- The extended number of a key between those of the infinities. -/
def FpFormat.num (φ : FpFormat) (k : Int) : ExtNum :=
  if φ.inf ≤ k then ⊤ else if k ≤ -φ.inf then ⊥ else ((signedUnits φ.p k * φ.unit : ℚ) : WithTop ℚ)

/-- R130, R131: in range, the order of the keys is the order of the numbers. -/
theorem FpFormat.num_strictMonoOn (φ : FpFormat) : StrictMonoOn φ.num (Set.Icc (-φ.inf) φ.inf) := by
  intro k hk l hl hkl
  obtain ⟨hk1, hk2⟩ := hk
  obtain ⟨hl1, hl2⟩ := hl
  unfold FpFormat.num
  rw [if_neg (by omega : ¬ (φ.inf : Int) ≤ k), if_neg (by omega : ¬ l ≤ -(φ.inf : Int))]
  split_ifs with hbot htop htop
  · exact WithBot.bot_lt_coe _
  · exact WithBot.bot_lt_coe _
  · exact WithBot.coe_lt_coe.mpr (WithTop.coe_lt_top _)
  · refine WithBot.coe_lt_coe.mpr (WithTop.coe_lt_coe.mpr ?_)
    exact mul_lt_mul_of_pos_right (Int.cast_lt.mpr (signedUnits_strictMono φ.p hkl)) φ.unit_pos

/-- R80, the finite patterns: sign times units times the unit. -/
theorem Fields.finiteVal_eq_units {bias : Int} {p : Nat} {F : Fields} (hM : F.M < 2 ^ p) :
    F.finiteVal bias p = (-1) ^ F.s * (units p (F.mag p) * 2 ^ (1 - bias - p)) := by
  have hp : (2 : ℚ) ^ (1 - bias - p) = 2 ^ (1 - bias) / 2 ^ p := by rw [zpow_sub₀ two_ne_zero, zpow_natCast]
  unfold Fields.finiteVal Fields.mag
  split_ifs with hE
  · rw [hE, Nat.zero_mul, Nat.zero_add, units_of_lt hM, hp]
    ring
  · obtain ⟨e, he⟩ := Nat.exists_eq_add_of_le' (Nat.one_le_iff_ne_zero.mpr hE)
    have hscale : (2 : ℚ) ^ ((F.E : Int) - bias) = 2 ^ (1 - bias) * 2 ^ e := by
      rw [← zpow_natCast, ← zpow_add₀ two_ne_zero, he]
      congr 1; push_cast; ring
    rw [units_of_fields (by omega) hM, he, Nat.add_sub_cancel, ← he, hp, hscale]
    push_cast
    field_simp

/-- The exponent field of a magnitude below that of infinity is not the all-ones one. -/
theorem Fields.mag_lt_inf_iff {φ : FpFormat} {F : Fields} (hM : F.M < 2 ^ φ.p) : F.mag φ.p < φ.inf ↔ F.E < φ.emax := by
  unfold Fields.mag FpFormat.inf
  constructor
  · intro h
    exact Nat.lt_of_mul_lt_mul_right (Nat.lt_of_le_of_lt (Nat.le_add_right _ _) h)
  · intro h
    have := Nat.mul_le_mul_right (2 ^ φ.p) h
    rw [Nat.succ_mul] at this
    omega

theorem Fields.eq_of_mag_eq_inf {φ : FpFormat} {F : Fields} (hM : F.M < 2 ^ φ.p) (hmag : F.mag φ.p = φ.inf) :
    F.E = φ.emax ∧ F.M = 0 := by
  have hge : φ.emax ≤ F.E := by
    rw [← Nat.not_lt, ← Fields.mag_lt_inf_iff hM, hmag]; exact lt_irrefl _
  have hle := Nat.mul_le_mul_right (2 ^ φ.p) hge
  unfold Fields.mag FpFormat.inf at hmag
  have hE : F.E * 2 ^ φ.p = φ.emax * 2 ^ φ.p := by omega
  exact ⟨Nat.eq_of_mul_eq_mul_right (Nat.two_pow_pos _) hE, by omega⟩

/-- The keys of the two signs. -/
theorem Fields.key_cases {p : Nat} {F : Fields} (hs : F.s < 2) :
    (F.s = 0 ∧ F.key p = F.mag p) ∨ (F.s = 1 ∧ F.key p = -(F.mag p : Int)) := by
  unfold Fields.key
  obtain h | h : F.s = 0 ∨ F.s = 1 := by omega
  · exact .inl ⟨h, if_neg (by omega)⟩
  · exact .inr ⟨h, if_pos h⟩

/-- R80, R130: a pattern that is no NaN stands for the number of its key. -/
theorem Fields.val_eq_num {φ : FpFormat} (hpos : 0 < φ.inf) {F : Fields} (hs : F.s < 2) (hM : F.M < 2 ^ φ.p)
    (hmag : F.mag φ.p ≤ φ.inf) : F.val φ.emax φ.bias φ.p = some (φ.num (F.key φ.p)) := by
  obtain hlt | heq := Nat.lt_or_eq_of_le hmag
  · have hE := (Fields.mag_lt_inf_iff hM).mp hlt
    rw [Fields.val, if_neg hE.ne, FpFormat.num, Fields.finiteVal_eq_units hM, FpFormat.unit]
    obtain ⟨hsign, hkey⟩ | ⟨hsign, hkey⟩ := F.key_cases (p := φ.p) hs
    · rw [hkey, if_neg (by omega), if_neg (by omega), signedUnits_natCast, hsign]
      norm_num
    · rw [hkey, if_neg (by omega), if_neg (by omega), signedUnits_neg_natCast, hsign]
      norm_num
  · obtain ⟨hE, hM0⟩ := Fields.eq_of_mag_eq_inf hM heq
    rw [Fields.val, if_pos hE, if_neg (by omega), FpFormat.num]
    obtain ⟨hsign, hkey⟩ | ⟨hsign, hkey⟩ := F.key_cases (p := φ.p) hs
    · rw [if_pos hsign, if_pos (by omega)]
    · rw [if_neg (by omega), if_neg (by omega), if_pos (by omega)]

/-- R80: a NaN stands for no number. -/
theorem Fields.val_of_nan {emax : Nat} {bias : Int} {p : Nat} {F : Fields} (hE : F.E = emax) (hM : F.M ≠ 0) :
    F.val emax bias p = none := by
  rw [Fields.val, if_pos hE, if_pos hM]

/-- The magnitude of a half is its low 15 bits. -/
theorem fields16_mag (h : Half) : (fields16 h).mag 10 = h.toNat % 32768 := by
  rw [Fields.mag, fields16_E, fields16_M]
  omega

theorem fields16_key (h : Half) : (fields16 h).key 10 = key16 h := by
  rw [Fields.key, fields16_mag, fields16_s]
  obtain hs | hs := Nat.lt_or_ge h.toNat 32768
  · rw [if_neg (by omega), key16_of_lt hs]; omega
  · rw [if_pos (by omega), key16_of_ge hs]; omega

/-- The number of a half that is no NaN is that of its key. -/
theorem val16_of_not_nan {h : Half} (hnan : isNaN16 h = false) : val16 h = some (binary16.num (key16 h)) := by
  rw [← fields16_key]
  refine Fields.val_eq_num (φ := binary16) (by decide) (fields16_s_lt h) (fields16_M_lt h) ?_
  rw [← Bool.not_eq_true, isNaN16_iff, Nat.not_lt] at hnan
  exact (fields16_mag h).trans_le hnan

theorem val16_of_nan {h : Half} (hnan : isNaN16 h = true) : val16 h = none := by
  obtain ⟨hE, hM⟩ := (isNaN16_iff_fields h).mp hnan
  exact Fields.val_of_nan hE hM

theorem val16_eq_some_iff {h : Half} {a : ExtNum} :
    val16 h = some a ↔ isNaN16 h = false ∧ binary16.num (key16 h) = a := by
  cases hnan : isNaN16 h
  · simp [val16_of_not_nan hnan]
  · simp [val16_of_nan hnan]

/-- The key of a half that is no NaN is in the range where keys and numbers have one order. -/
theorem key16_mem_range {h : Half} (hnan : isNaN16 h = false) :
    key16 h ∈ Set.Icc (-(binary16.inf : Int)) binary16.inf :=
  (isNaN16_eq_false_iff h).mp hnan

theorem num16_lt_iff {x y : Half} (hx : isNaN16 x = false) (hy : isNaN16 y = false) :
    binary16.num (key16 x) < binary16.num (key16 y) ↔ key16 x < key16 y :=
  binary16.num_strictMonoOn.lt_iff_lt (key16_mem_range hx) (key16_mem_range hy)

theorem num16_le_iff {x y : Half} (hx : isNaN16 x = false) (hy : isNaN16 y = false) :
    binary16.num (key16 x) ≤ binary16.num (key16 y) ↔ key16 x ≤ key16 y :=
  binary16.num_strictMonoOn.le_iff_le (key16_mem_range hx) (key16_mem_range hy)

/-- A relation of the numbers that is one of the keys, said of the halves. -/
theorem related_val16_iff {rel : ExtNum → ExtNum → Prop} {keyRel : Int → Int → Prop} (x y : Half)
    (hrel : isNaN16 x = false → isNaN16 y = false →
      (rel (binary16.num (key16 x)) (binary16.num (key16 y)) ↔ keyRel (key16 x) (key16 y))) :
    Related rel (val16 x) (val16 y) ↔ isNaN16 x = false ∧ isNaN16 y = false ∧ keyRel (key16 x) (key16 y) := by
  unfold Related
  constructor
  · rintro ⟨a, b, ha, hb, hab⟩
    obtain ⟨hx, rfl⟩ := val16_eq_some_iff.mp ha
    obtain ⟨hy, rfl⟩ := val16_eq_some_iff.mp hb
    exact ⟨hx, hy, (hrel hx hy).mp hab⟩
  · rintro ⟨hx, hy, hkey⟩
    exact ⟨_, _, val16_of_not_nan hx, val16_of_not_nan hy, (hrel hx hy).mpr hkey⟩

theorem feq_iff_related (x y : Half) : feq x y = true ↔ Related (· = ·) (val16 x) (val16 y) := by
  rw [feq_iff, related_val16_iff (keyRel := (· = ·)) x y]
  intro hx hy
  exact binary16.num_strictMonoOn.injOn.eq_iff (key16_mem_range hx) (key16_mem_range hy)

theorem flt_iff_related (x y : Half) : flt x y = true ↔ Related (· < ·) (val16 x) (val16 y) := by
  rw [flt_iff, related_val16_iff (keyRel := (· < ·)) x y num16_lt_iff]

theorem fle_iff_related (x y : Half) : fle x y = true ↔ Related (· ≤ ·) (val16 x) (val16 y) := by
  rw [fle_iff, related_val16_iff (keyRel := (· ≤ ·)) x y num16_le_iff]

theorem fgt_iff_related (x y : Half) : fgt x y = true ↔ Related (· > ·) (val16 x) (val16 y) := by
  rw [fgt_iff, related_val16_iff (keyRel := (· > ·)) x y fun hx hy => num16_lt_iff hy hx]

theorem fge_iff_related (x y : Half) : fge x y = true ↔ Related (· ≥ ·) (val16 x) (val16 y) := by
  rw [fge_iff, related_val16_iff (keyRel := (· ≥ ·)) x y fun hx hy => num16_le_iff hy hx]

/-- Settles O33: each comparison drives its Boolean, which its lemma above relates to the numbers. -/
theorem comparisonsOrderTheNumbers : Obligations.ComparisonsOrderTheNumbers := by
  refine fun x y s => ⟨⟨_, rfl, feq_iff_related x y⟩, ⟨fne x y, rfl, ?_⟩, ⟨_, rfl, flt_iff_related x y⟩,
    ⟨_, rfl, fle_iff_related x y⟩, ⟨_, rfl, fgt_iff_related x y⟩, ⟨_, rfl, fge_iff_related x y⟩⟩
  rw [fne, Bool.not_eq_true', ← Bool.not_eq_true, feq_iff_related]

/-- Settles O37: the key moves by one toward that of `y`, and no half has a key between. -/
theorem nextafterIsAdjacent : Obligations.NextafterIsAdjacent := by
  intro x y s a b ha hb hab
  obtain ⟨hx, rfl⟩ := val16_eq_some_iff.mp ha
  obtain ⟨hy, rfl⟩ := val16_eq_some_iff.mp hb
  have hne : key16 x ≠ key16 y := fun h => hab (congrArg _ h)
  obtain hlt | hgt := Int.lt_or_gt_of_ne hne
  · obtain ⟨hz, hkey, -⟩ := keyStep_nextafter_up hx hy hlt
    refine ⟨_, _, rfl, val16_of_not_nan hz, .inl ⟨?_, ?_⟩, fun w e he => ?_⟩
    · rw [num16_lt_iff hx hz]; omega
    · rw [num16_le_iff hz hy]; omega
    · obtain ⟨hw, rfl⟩ := val16_eq_some_iff.mp he
      rw [num16_lt_iff hx hw, num16_lt_iff hw hz, num16_lt_iff hz hw, num16_lt_iff hw hx]
      omega
  · obtain ⟨hz, hkey, -⟩ := keyStep_nextafter_down hx hy hgt
    refine ⟨_, _, rfl, val16_of_not_nan hz, .inr ⟨?_, ?_⟩, fun w e he => ?_⟩
    · rw [num16_lt_iff hz hx]; omega
    · rw [num16_le_iff hy hz]; omega
    · obtain ⟨hw, rfl⟩ := val16_eq_some_iff.mp he
      rw [num16_lt_iff hx hw, num16_lt_iff hw hz, num16_lt_iff hz hw, num16_lt_iff hw hx]
      omega

end Sys2Proof.Machine
end

section
/-! PROOF. The widenings of spec/41_conversion.md by their branches (R90, R98), and what an exact widening keeps
(R96, R100, R104). -/

namespace Sys2Proof.Machine

/-- R92: on a subnormal's mantissa the loop runs at least once and at most `top` times. -/
theorem normalise_subnormal {top M : Nat} (hpos : 0 < M) (hlt : M < 2 ^ top) :
    ∃ k, 1 ≤ k ∧ k ≤ top ∧ (M <<< k).testBit top = true ∧ (∀ j, j < k → (M <<< j).testBit top = false) ∧
      M <<< k < 2 ^ (top + 1) ∧ normalise top top M 1 = (M <<< k, (1 : Int) - k) := by
  have hbound : 2 ^ top ≤ M * 2 ^ top := Nat.le_mul_of_pos_left _ hpos
  obtain ⟨k, hk, htop, hbefore, hrange, heq⟩ :=
    normalise_spec top top M 1 hpos (hlt.trans (Nat.pow_lt_pow_right Nat.one_lt_two (Nat.lt_succ_self top))) hbound
  refine ⟨k, ?_, hk, htop, hbefore, hrange, heq⟩
  rw [Nat.one_le_iff_ne_zero]
  rintro rfl
  exact absurd (Nat.ge_two_pow_of_testBit htop) (Nat.not_le.mpr hlt)

/-- The leading bit is masked away. -/
theorem and_mask_of_leading {t m : Nat} (hge : 2 ^ t ≤ m) (hlt : m < 2 ^ (t + 1)) : m &&& (2 ^ t - 1) = m - 2 ^ t := by
  rw [Nat.pow_succ] at hlt
  rw [Nat.and_two_pow_sub_one_eq_mod, Nat.mod_eq_sub_mod hge, Nat.mod_eq_of_lt (by omega)]

/-- One shift alone brings the leading bit to its place. -/
theorem leading_shift_unique {t M j k : Nat} (hj : 2 ^ t ≤ M * 2 ^ j) (hj' : M * 2 ^ j < 2 ^ (t + 1))
    (hk : 2 ^ t ≤ M * 2 ^ k) (hk' : M * 2 ^ k < 2 ^ (t + 1)) : j = k := by
  have step : ∀ {a b : Nat}, a < b → 2 ^ t ≤ M * 2 ^ a → ¬ M * 2 ^ b < 2 ^ (t + 1) := by
    intro a b hab ha hb
    have hle : M * 2 ^ (a + 1) ≤ M * 2 ^ b := Nat.mul_le_mul_left M (Nat.pow_le_pow_right two_pos hab)
    rw [Nat.pow_succ, ← Nat.mul_assoc] at hle
    rw [Nat.pow_succ] at hb
    omega
  obtain h | h | h := Nat.lt_trichotomy j k
  · exact absurd hk' (step h hj)
  · exact h
  · exact absurd hj' (step h hk)

/-! ### The branches of H2F -/

/-- R90: infinity and NaN. -/
theorem h2f_of_allOnes {h : Half} (hE : (fields16 h).E = 0x1F) :
    h2f h = pack32 (fields16 h).s 0xFF ((fields16 h).M <<< 13) := by
  rw [h2f, h2fFields, if_pos hE]
  split_ifs with hM
  · rw [hM, Nat.zero_shiftLeft]
  · rfl

/-- R90: zero. -/
theorem h2f_of_zero {h : Half} (hE : (fields16 h).E = 0) (hM : (fields16 h).M = 0) :
    h2f h = pack32 (fields16 h).s 0 0 := by
  rw [h2f, h2fFields, if_neg (by omega), if_pos hE, if_pos hM]

/-- R90: the subnormal branch, from what the loop answers. -/
theorem widenSubnormal16_eq {s M m : Nat} {w : Int} (h : normalise 10 10 M 1 = (m, w)) :
    widenSubnormal16 s M = pack32 s (112 + w).toNat ((m &&& 0x3FF) <<< 13) := by
  simp only [widenSubnormal16, h, rebias_16_32, Nat.cast_zero, Int.zero_add]

/-- R90, R92: subnormal, with the number of the loop's rounds. -/
theorem h2f_of_subnormal {h : Half} (hE : (fields16 h).E = 0) (hM : (fields16 h).M ≠ 0) :
    ∃ k, 1 ≤ k ∧ k ≤ 10 ∧ ((fields16 h).M <<< k).testBit 10 = true ∧
      (∀ j, j < k → ((fields16 h).M <<< j).testBit 10 = false) ∧ (fields16 h).M <<< k < 2 ^ (10 + 1) ∧
      h2f h = pack32 (fields16 h).s (1 - k + 112 : Int).toNat ((((fields16 h).M <<< k) &&& 0x3FF) <<< 13) := by
  obtain ⟨k, hk, hk', htop, hbefore, hrange, heq⟩ :=
    normalise_subnormal (top := 10) (Nat.pos_of_ne_zero hM) (fields16_M_lt h)
  refine ⟨k, hk, hk', htop, hbefore, hrange, ?_⟩
  rw [h2f, h2fFields, if_neg (by omega), if_pos hE, if_neg hM, widenSubnormal16_eq heq, Int.add_comm]

/-- R90: normal. -/
theorem h2f_of_normal {h : Half} (hE : (fields16 h).E ≠ 0x1F) (hE' : (fields16 h).E ≠ 0) :
    h2f h = pack32 (fields16 h).s ((fields16 h).E + 112) ((fields16 h).M <<< 13) := by
  rw [h2f, h2fFields, if_neg hE, if_neg hE', rebias_16_32]
  rfl

/-- Settles O18: the branch lemmas above, infinity and NaN in one. -/
theorem h2fFollowsItsBranches : Obligations.H2fFollowsItsBranches := by
  refine fun h s => ⟨h2f h, rfl, fun hE hM => ?_, fun hE _ => h2f_of_allOnes hE, h2f_of_zero, fun hE hM => ?_,
    h2f_of_normal⟩
  · rw [h2f_of_allOnes hE, hM, Nat.zero_shiftLeft]
  · obtain ⟨k, hk, hk', htop, hbefore, -, heq⟩ := h2f_of_subnormal hE hM
    exact ⟨k, hk, hk', htop, hbefore, heq⟩

/-! ### The branches of the inner widening -/

/-- R98: infinity and NaN. -/
theorem widen_of_allOnes {f : F32} (hE : (fields32 f).E = 0xFF) :
    widen f = pack64 (fields32 f).s 0x7FF ((fields32 f).M <<< 29) := by
  rw [widen, widenFields, if_pos hE]

/-- R98: zero. -/
theorem widen_of_zero {f : F32} (hE : (fields32 f).E = 0) (hM : (fields32 f).M = 0) :
    widen f = pack64 (fields32 f).s 0 0 := by
  rw [widen, widenFields, if_neg (by omega), if_pos ⟨hE, hM⟩]

/-- R98: the subnormal branch, from what the loop answers. -/
theorem widenSubnormal32_eq {s M m : Nat} {w : Int} (h : normalise 23 23 M 1 = (m, w)) :
    widenSubnormal32 s M = pack64 s (896 + w).toNat ((m &&& 0x7FFFFF) <<< 29) := by
  simp only [widenSubnormal32, h, rebias_32_64, Nat.cast_zero, Int.zero_add]

/-- R98: subnormal, with the number of the loop's rounds. -/
theorem widen_of_subnormal {f : F32} (hE : (fields32 f).E = 0) (hM : (fields32 f).M ≠ 0) :
    ∃ k, 1 ≤ k ∧ k ≤ 23 ∧ ((fields32 f).M <<< k).testBit 23 = true ∧ (fields32 f).M <<< k < 2 ^ (23 + 1) ∧
      widen f = pack64 (fields32 f).s (1 - k + 896 : Int).toNat ((((fields32 f).M <<< k) &&& 0x7FFFFF) <<< 29) := by
  obtain ⟨k, hk, hk', htop, -, hrange, heq⟩ :=
    normalise_subnormal (top := 23) (Nat.pos_of_ne_zero hM) (fields32_M_lt f)
  refine ⟨k, hk, hk', htop, hrange, ?_⟩
  rw [widen, widenFields, if_neg (by omega), if_neg (fun h => hM h.2), if_pos hE, widenSubnormal32_eq heq,
    Int.add_comm]

/-- R98: normal. -/
theorem widen_of_normal {f : F32} (hE : (fields32 f).E ≠ 0xFF) (hE' : (fields32 f).E ≠ 0) :
    widen f = pack64 (fields32 f).s ((fields32 f).E + 896) ((fields32 f).M <<< 29) := by
  rw [widen, widenFields, if_neg hE, if_neg (fun h => hE' h.1), if_neg hE', rebias_32_64]
  rfl

/-! ### Exact widening of fields -/

/-- The fields `G` are those of `F` in a wider format: the all-ones exponent fields are `emax` and `emax'`, the biases differ by
`d`, the mantissa of `p` bits gains `q` bits, and a subnormal is normalised by the shift `k` that brings its leading
bit to bit `p`. -/
structure Widens (emax emax' d p q : Nat) (F G : Fields) : Prop where
  sign : G.s = F.s
  allOnes : F.E = emax → G.E = emax' ∧ G.M = F.M * 2 ^ q
  zero : F.E = 0 → F.M = 0 → G.E = 0 ∧ G.M = 0
  subnormal : ∀ k, F.E = 0 → 1 ≤ k → k ≤ p → 2 ^ p ≤ F.M * 2 ^ k → F.M * 2 ^ k < 2 ^ (p + 1) →
    G.E = d + 1 - k ∧ G.M = (F.M * 2 ^ k - 2 ^ p) * 2 ^ q
  normal : F.E ≠ emax → F.E ≠ 0 → G.E = F.E + d ∧ G.M = F.M * 2 ^ q

section Widens

variable {emax emax' d p q : Nat} {F G : Fields}

theorem Widens.of_allOnes (hemax : emax ≠ 0) (hF : F.E = emax) (hs : G.s = F.s) (hE : G.E = emax')
    (hM : G.M = F.M * 2 ^ q) : Widens emax emax' d p q F G where
  sign := hs
  allOnes _ := ⟨hE, hM⟩
  zero h _ := absurd (hF.symm.trans h) hemax
  subnormal _ h _ _ _ _ := absurd (hF.symm.trans h) hemax
  normal h _ := absurd hF h

theorem Widens.of_zero (hemax : emax ≠ 0) (hFE : F.E = 0) (hFM : F.M = 0) (hs : G.s = F.s) (hE : G.E = 0) (hM : G.M = 0) :
    Widens emax emax' d p q F G where
  sign := hs
  allOnes h := absurd (h.symm.trans hFE) hemax
  zero _ _ := ⟨hE, hM⟩
  subnormal k _ _ _ hlead _ := by
    rw [hFM, Nat.zero_mul] at hlead
    exact absurd hlead (Nat.not_le.mpr (Nat.two_pow_pos p))
  normal _ h := absurd hFE h

theorem Widens.of_subnormal (hemax : emax ≠ 0) {k : Nat} (hFE : F.E = 0) (hlead : 2 ^ p ≤ F.M * 2 ^ k)
    (hlt : F.M * 2 ^ k < 2 ^ (p + 1)) (hs : G.s = F.s) (hE : G.E = d + 1 - k) (hM : G.M = (F.M * 2 ^ k - 2 ^ p) * 2 ^ q) :
    Widens emax emax' d p q F G where
  sign := hs
  allOnes h := absurd (h.symm.trans hFE) hemax
  zero _ hFM := by
    rw [hFM, Nat.zero_mul] at hlead
    exact absurd hlead (Nat.not_le.mpr (Nat.two_pow_pos p))
  subnormal j _ _ _ hlead' hlt' := by
    obtain rfl := leading_shift_unique hlead hlt hlead' hlt'
    exact ⟨hE, hM⟩
  normal _ h := absurd hFE h

theorem Widens.of_normal (hFE : F.E ≠ emax) (hFE' : F.E ≠ 0) (hs : G.s = F.s) (hE : G.E = F.E + d)
    (hM : G.M = F.M * 2 ^ q) : Widens emax emax' d p q F G where
  sign := hs
  allOnes h := absurd h hFE
  zero h _ := absurd h hFE'
  subnormal _ h _ _ _ _ := absurd h hFE'
  normal _ _ := ⟨hE, hM⟩

end Widens

/-- R90 as an exact widening of the fields. -/
theorem h2f_widens (h : Half) : Widens 0x1F 0xFF 112 10 13 (fields16 h) (fields32 (h2f h)) := by
  have hs := fields16_s_lt h
  have hMlt := fields16_M_lt h
  have hElt := fields16_E_lt h
  have hshift : (fields16 h).M <<< 13 = (fields16 h).M * 2 ^ 13 := Nat.shiftLeft_eq ..
  by_cases hones : (fields16 h).E = 0x1F
  · rw [h2f_of_allOnes hones, hshift, fields32_pack32 hs (by decide) (by omega)]
    exact .of_allOnes (by decide) hones rfl rfl rfl
  by_cases hE : (fields16 h).E = 0
  · by_cases hM : (fields16 h).M = 0
    · rw [h2f_of_zero hE hM, fields32_pack32 hs (by decide) (by decide)]
      exact .of_zero (by decide) hE hM rfl rfl rfl
    · obtain ⟨k, hk, hk', htop, -, hrange, heq⟩ := h2f_of_subnormal hE hM
      have hlead := Nat.ge_two_pow_of_testBit htop
      have hmask : ((fields16 h).M <<< k) &&& 0x3FF = (fields16 h).M <<< k - 2 ^ 10 := and_mask_of_leading hlead hrange
      have hexp : (1 - k + 112 : Int).toNat = 113 - k := by omega
      rw [heq, hmask, hexp, Nat.shiftLeft_eq _ 13, fields32_pack32 hs (by omega) (by omega)]
      rw [Nat.shiftLeft_eq] at hlead hrange ⊢
      exact .of_subnormal (by decide) hE hlead hrange rfl rfl rfl
  · rw [h2f_of_normal hones hE, hshift, fields32_pack32 hs (by omega) (by omega)]
    exact .of_normal hones hE rfl rfl rfl

/-- R98 as an exact widening of the fields. -/
theorem widen_widens (f : F32) : Widens 0xFF 0x7FF 896 23 29 (fields32 f) (fields64 (widen f)) := by
  have hs := fields32_s_lt f
  have hMlt := fields32_M_lt f
  have hElt := fields32_E_lt f
  have hshift : (fields32 f).M <<< 29 = (fields32 f).M * 2 ^ 29 := Nat.shiftLeft_eq ..
  by_cases hones : (fields32 f).E = 0xFF
  · rw [widen_of_allOnes hones, hshift, fields64_pack64 hs (by decide) (by omega)]
    exact .of_allOnes (by decide) hones rfl rfl rfl
  by_cases hE : (fields32 f).E = 0
  · by_cases hM : (fields32 f).M = 0
    · rw [widen_of_zero hE hM, fields64_pack64 hs (by decide) (by decide)]
      exact .of_zero (by decide) hE hM rfl rfl rfl
    · obtain ⟨k, hk, hk', htop, hrange, heq⟩ := widen_of_subnormal hE hM
      have hlead := Nat.ge_two_pow_of_testBit htop
      have hmask : ((fields32 f).M <<< k) &&& 0x7FFFFF = (fields32 f).M <<< k - 2 ^ 23 :=
        and_mask_of_leading hlead hrange
      have hexp : (1 - k + 896 : Int).toNat = 897 - k := by omega
      rw [heq, hmask, hexp, Nat.shiftLeft_eq _ 29, fields64_pack64 hs (by omega) (by omega)]
      rw [Nat.shiftLeft_eq] at hlead hrange ⊢
      exact .of_subnormal (by decide) hE hlead hrange rfl rfl rfl
  · rw [widen_of_normal hones hE, hshift, fields64_pack64 hs (by omega) (by omega)]
    exact .of_normal hones hE rfl rfl rfl

/-- The shift that normalises a subnormal's mantissa. -/
theorem exists_leading_shift {p M : Nat} (hpos : 0 < M) (hlt : M < 2 ^ p) :
    ∃ k, 1 ≤ k ∧ k ≤ p ∧ 2 ^ p ≤ M * 2 ^ k ∧ M * 2 ^ k < 2 ^ (p + 1) := by
  obtain ⟨k, hk, hk', htop, -, hrange, -⟩ := normalise_subnormal hpos hlt
  have hlead := Nat.ge_two_pow_of_testBit htop
  rw [Nat.shiftLeft_eq] at hlead hrange
  exact ⟨k, hk, hk', hlead, hrange⟩

/-- R96: the value of a normal is kept, exponent and mantissa scaled alike. -/
theorem finiteVal_of_normal {d p q : Nat} {F G : Fields} {bias : Int} (hF : F.E ≠ 0) (hs : G.s = F.s) (hE : G.E = F.E + d)
    (hM : G.M = F.M * 2 ^ q) : G.finiteVal (bias + d) (p + q) = F.finiteVal bias p := by
  have hG : G.E ≠ 0 := by omega
  have hexp : ((F.E + d : Nat) : Int) - (bias + d) = F.E - bias := by push_cast; ring
  rw [Fields.finiteVal, Fields.finiteVal, if_neg hG, if_neg hF, hs, hE, hM, hexp, pow_add]
  push_cast
  field_simp

/-- R96: the value of a subnormal is kept, the shift of the mantissa taken from the exponent. -/
theorem finiteVal_of_subnormal {d p q k : Nat} {F G : Fields} {bias : Int} (hF : F.E = 0) (hs : G.s = F.s) (hk : k ≤ d)
    (hlead : 2 ^ p ≤ F.M * 2 ^ k) (hE : G.E = d + 1 - k) (hM : G.M = (F.M * 2 ^ k - 2 ^ p) * 2 ^ q) :
    G.finiteVal (bias + d) (p + q) = F.finiteVal bias p := by
  have hG : G.E ≠ 0 := by omega
  have hexp : (G.E : Int) - (bias + d) = 1 - bias - k := by omega
  have hmant : (G.M : ℚ) = (F.M * 2 ^ k - 2 ^ p) * 2 ^ q := by
    rw [hM, Nat.cast_mul, Nat.cast_sub hlead]; push_cast; rfl
  rw [Fields.finiteVal, Fields.finiteVal, if_neg hG, if_pos hF, hs, hmant, hexp, zpow_sub₀ two_ne_zero, zpow_natCast, pow_add]
  field_simp
  ring

section Kept

variable {emax emax' d p q : Nat} {F G : Fields} (hW : Widens emax emax' d p q F G) (hMlt : F.M < 2 ^ p)
  (hElt : F.E ≤ emax) (hp : p ≤ d) (hemax' : emax + d < emax')
include hW hMlt hElt hp hemax'

/-- R96: every value is kept. -/
theorem Widens.val_eq (bias : Int) : G.val emax' (bias + d) (p + q) = F.val emax bias p := by
  by_cases hones : F.E = emax
  · obtain ⟨hE, hM⟩ := hW.allOnes hones
    rw [Fields.val, Fields.val, if_pos hE, if_pos hones, hM, hW.sign]
    simp
  have hfinite : G.E ≠ emax' ∧ G.finiteVal (bias + d) (p + q) = F.finiteVal bias p := by
    by_cases hF : F.E = 0
    · by_cases hM0 : F.M = 0
      · obtain ⟨hE, hM⟩ := hW.zero hF hM0
        refine ⟨by omega, ?_⟩
        rw [Fields.finiteVal, Fields.finiteVal, if_pos hE, if_pos hF, hM, hM0]
        simp
      · obtain ⟨k, hk, hk', hlead, hlt⟩ := exists_leading_shift (Nat.pos_of_ne_zero hM0) hMlt
        obtain ⟨hE, hM⟩ := hW.subnormal k hF hk hk' hlead hlt
        exact ⟨by omega, finiteVal_of_subnormal hF hW.sign (hk'.trans hp) hlead hE hM⟩
    · obtain ⟨hE, hM⟩ := hW.normal hones hF
      exact ⟨by omega, finiteVal_of_normal hF hW.sign hE hM⟩
  rw [Fields.val, Fields.val, if_neg hones, if_neg hfinite.1, hfinite.2]

/-- R104: the class is kept, but a subnormal becomes a normal. -/
theorem Widens.fpClass_eq (hemax : emax ≠ 0) :
    G.fpClass emax' = if F.fpClass emax = .subnormal then .normal else F.fpClass emax := by
  have hemax0 : emax' ≠ 0 := by omega
  by_cases hones : F.E = emax
  · obtain ⟨hE, hM⟩ := hW.allOnes hones
    by_cases hM0 : F.M = 0
    · rw [(Fields.fpClass_eq_infinity_iff hemax).mpr ⟨hones, hM0⟩, if_neg (by decide), Fields.fpClass_eq_infinity_iff hemax0]
      exact ⟨hE, by rw [hM, hM0, Nat.zero_mul]⟩
    · rw [(Fields.fpClass_eq_nan_iff hemax).mpr ⟨hones, hM0⟩, if_neg (by decide), Fields.fpClass_eq_nan_iff hemax0]
      exact ⟨hE, by rw [hM]; exact Nat.mul_ne_zero hM0 (Nat.two_pow_pos q).ne'⟩
  by_cases hF : F.E = 0
  · by_cases hM0 : F.M = 0
    · rw [Fields.fpClass_eq_zero_iff.mpr ⟨hF, hM0⟩, if_neg (by decide), Fields.fpClass_eq_zero_iff]
      exact hW.zero hF hM0
    · obtain ⟨k, hk, hk', hlead, hlt⟩ := exists_leading_shift (Nat.pos_of_ne_zero hM0) hMlt
      obtain ⟨hE, -⟩ := hW.subnormal k hF hk hk' hlead hlt
      rw [Fields.fpClass_eq_subnormal_iff.mpr ⟨hF, hM0⟩, if_pos rfl, Fields.fpClass_eq_normal_iff]
      omega
  · obtain ⟨hE, -⟩ := hW.normal hones hF
    rw [Fields.fpClass_eq_normal_iff.mpr ⟨hF, hones⟩, if_neg (by decide), Fields.fpClass_eq_normal_iff]
    omega

end Kept

theorem val32_h2f (h : Half) : val32 (h2f h) = val16 h :=
  (h2f_widens h).val_eq (fields16_M_lt h) (Nat.le_of_lt_succ (fields16_E_lt h)) (by decide) (by decide) bias16

theorem class32_h2f (h : Half) : class32 (h2f h) = if class16 h = .subnormal then .normal else class16 h :=
  (h2f_widens h).fpClass_eq (fields16_M_lt h) (Nat.le_of_lt_succ (fields16_E_lt h)) (by decide) (by decide) (by decide)

theorem val64_widen (f : F32) : val64 (widen f) = val32 f :=
  (widen_widens f).val_eq (fields32_M_lt f) (Nat.le_of_lt_succ (fields32_E_lt f)) (by decide) (by decide) bias32

theorem class64_widen (f : F32) : class64 (widen f) = if class32 f = .subnormal then .normal else class32 f :=
  (widen_widens f).fpClass_eq (fields32_M_lt f) (Nat.le_of_lt_succ (fields32_E_lt f)) (by decide) (by decide) (by decide)

theorem msb_eq_of_fields16 (h : Half) : h.msb = decide ((fields16 h).s = 1) := by
  rw [BitVec.msb_eq_decide, fields16_s, decide_eq_decide]
  omega

theorem msb_eq_of_fields32 (f : F32) : f.msb = decide ((fields32 f).s = 1) := by
  rw [BitVec.msb_eq_decide, fields32_s, decide_eq_decide]
  omega

theorem msb_eq_of_fields64 (d : F64) : d.msb = decide ((fields64 d).s = 1) := by
  rw [BitVec.msb_eq_decide, fields64_s, decide_eq_decide]
  omega

theorem msb_h2f (h : Half) : (h2f h).msb = h.msb := by
  rw [msb_eq_of_fields32, msb_eq_of_fields16, (h2f_widens h).sign]

theorem msb_widen (f : F32) : (widen f).msb = f.msb := by
  rw [msb_eq_of_fields64, msb_eq_of_fields32, (widen_widens f).sign]

/-- Settles O27: the inner widening is an exact widening of the fields. -/
theorem innerWideningIsExact : Obligations.InnerWideningIsExact := fun f => ⟨val64_widen f, msb_widen f⟩

theorem class32_h2f_ne_subnormal (h : Half) : class32 (h2f h) ≠ .subnormal := by
  rw [class32_h2f]
  split_ifs with hsub
  · decide
  · exact hsub

/-- R96: the inner widening meets no subnormal in H2D. -/
theorem class64_h2d (h : Half) : class64 (h2d h) = class32 (h2f h) := by
  rw [h2d, class64_widen, if_neg (class32_h2f_ne_subnormal h)]

/-- Settles O19: H2F and the inner widening each keep value and sign, and leave no subnormal. -/
theorem wideningIsExact : Obligations.WideningIsExact := by
  refine fun h s => ⟨h2f h, h2d h, rfl, rfl, val32_h2f h, ?_, msb_h2f h, ?_, class32_h2f_ne_subnormal h, ?_⟩
  · rw [h2d, val64_widen, val32_h2f]
  · rw [h2d, msb_widen, msb_h2f]
  · rw [class64_h2d]; exact class32_h2f_ne_subnormal h

/-- Settles O34: H2F keeps the numbers, and LT compares them. -/
theorem ltIsTheFloat32OrderOfH2f : Obligations.LtIsTheFloat32OrderOfH2f := by
  refine fun x y s => ⟨h2f x, h2f y, rfl, rfl, ?_⟩
  rw [val32_h2f, val32_h2f, ← flt_iff_related]
  change (s.drive (placeBool (flt x y)) = _ ↔ _) ∧ (s.drive (placeBool (flt x y)) = _ ↔ _)
  cases flt x y <;> simp [State.drive, placeBool]

/-- A float64 pattern is packed from its fields. -/
theorem eq_pack64 {d : F64} {s E M : Nat} (hs : (fields64 d).s = s) (hE : (fields64 d).E = E) (hM : (fields64 d).M = M) :
    d = pack64 s E M := by
  rw [← hs, ← hE, ← hM, pack64_fields64]

/-- R100: H2D is one exact widening of the fields, the two steps' exponents and mantissas joined. -/
theorem h2d_widens (h : Half) : Widens 0x1F 0x7FF 1008 10 42 (fields16 h) (fields64 (h2d h)) := by
  have hH := h2f_widens h
  have hD := widen_widens (h2f h)
  have hElt := fields16_E_lt h
  have hscale (M : Nat) : M * 2 ^ 13 * 2 ^ 29 = M * 2 ^ 42 := by omega
  change Widens _ _ _ _ _ _ (fields64 (widen (h2f h)))
  constructor
  case sign => rw [hD.sign, hH.sign]
  case allOnes =>
    intro hF
    obtain ⟨hE, hM⟩ := hH.allOnes hF
    obtain ⟨hE', hM'⟩ := hD.allOnes hE
    exact ⟨hE', by rw [hM', hM, hscale]⟩
  case zero =>
    intro hF hF'
    obtain ⟨hE, hM⟩ := hH.zero hF hF'
    exact hD.zero hE hM
  case subnormal =>
    intro k hF hk hk' hlead hlt
    obtain ⟨hE, hM⟩ := hH.subnormal k hF hk hk' hlead hlt
    obtain ⟨hE', hM'⟩ := hD.normal (by omega) (by omega)
    exact ⟨by omega, by rw [hM', hM, hscale]⟩
  case normal =>
    intro hF hF'
    obtain ⟨hE, hM⟩ := hH.normal hF hF'
    obtain ⟨hE', hM'⟩ := hD.normal (by omega) (by omega)
    exact ⟨by omega, by rw [hM', hM, hscale]⟩

/-- Settles O20: the clauses of the one exact widening; the leading bit `p` of a subnormal fixes the shift `10 - p`. -/
theorem h2dEqualsItsClosedForm : Obligations.H2dEqualsItsClosedForm := by
  intro h s
  have hW := h2d_widens h
  refine ⟨h2d h, rfl, fun hE => ?_, fun hE hM => ?_, fun p hE hp hp' => ?_, fun hE hE' => ?_⟩
  · obtain ⟨hGE, hGM⟩ := hW.allOnes hE
    exact eq_pack64 hW.sign hGE (by rw [hGM, Nat.shiftLeft_eq])
  · obtain ⟨hGE, hGM⟩ := hW.zero hE hM
    exact eq_pack64 hW.sign hGE hGM
  · have hp10 : p < 10 := (Nat.pow_lt_pow_iff_right Nat.one_lt_two).mp (hp.trans_lt (fields16_M_lt h))
    have hscale : 2 ^ p * 2 ^ (10 - p) = 2 ^ 10 ∧ 2 ^ (p + 1) * 2 ^ (10 - p) = 2 ^ (10 + 1) := by
      constructor <;> rw [← Nat.pow_add] <;> congr 1 <;> omega
    have hlead : 2 ^ 10 ≤ (fields16 h).M * 2 ^ (10 - p) := hscale.1 ▸ Nat.mul_le_mul_right _ hp
    have hlt : (fields16 h).M * 2 ^ (10 - p) < 2 ^ (10 + 1) :=
      hscale.2 ▸ Nat.mul_lt_mul_of_pos_right hp' (Nat.two_pow_pos _)
    obtain ⟨hGE, hGM⟩ := hW.subnormal (10 - p) hE (by omega) (by omega) hlead hlt
    refine eq_pack64 hW.sign hGE ?_
    have hmask : (fields16 h).M * 2 ^ (10 - p) &&& 0x3FF = (fields16 h).M * 2 ^ (10 - p) - 2 ^ 10 :=
      and_mask_of_leading hlead hlt
    rw [hGM, Nat.shiftLeft_eq, Nat.shiftLeft_eq, hmask]
  · obtain ⟨hGE, hGM⟩ := hW.normal hE hE'
    exact eq_pack64 hW.sign hGE (by rw [hGM, Nat.shiftLeft_eq])

end Sys2Proof.Machine
end

section
/-! PROOF. The narrowings of spec/41_conversion.md by their branches (R93, R101), and their composition with the
widenings (R97, R103). -/

namespace Sys2Proof.Machine

theorem narrowNanMantissa_zero : narrowNanMantissa 0 = 1 := rfl

theorem narrowNanMantissa_of_ne_zero {m : Nat} (hm : m ≠ 0) : narrowNanMantissa m = m := if_neg hm

/-- R95: a narrowed NaN keeps a mantissa, in the width of the shifted one. -/
theorem narrowNanMantissa_pos_lt {m w : Nat} (hm : m < w) (hw : 1 < w) :
    0 < narrowNanMantissa m ∧ narrowNanMantissa m < w := by
  by_cases h : m = 0
  · rw [h, narrowNanMantissa_zero]; omega
  · rw [narrowNanMantissa_of_ne_zero h]; omega

/-! ### The branches of F2H -/

/-- R93 on the magnitude: the low 15 bits of the half, from exponent field and mantissa of the float32 pattern. -/
def f2hMagnitude (E M : Nat) : Nat :=
  if E = 255 then (if M = 0 then 31744 else 31744 + narrowNanMantissa (M / 8192))
  else if 143 ≤ E then 31744
  else if 113 ≤ E then (E - 112) * 1024 + M / 8192
  else if 102 ≤ E then (8388608 + M) / 2 ^ (126 - E)
  else 0

theorem f2hMagnitude_of_infinity {E M : Nat} (hE : E = 255) (hM : M = 0) : f2hMagnitude E M = 31744 := by
  rw [f2hMagnitude, if_pos hE, if_pos hM]

theorem f2hMagnitude_of_nan {E M : Nat} (hE : E = 255) (hM : M ≠ 0) :
    f2hMagnitude E M = 31744 + narrowNanMantissa (M / 8192) := by
  rw [f2hMagnitude, if_pos hE, if_neg hM]

theorem f2hMagnitude_of_overflow {E M : Nat} (hE : 143 ≤ E) (hE' : E ≤ 254) : f2hMagnitude E M = 31744 := by
  rw [f2hMagnitude, if_neg (by omega), if_pos hE]

theorem f2hMagnitude_of_normal {E M : Nat} (hE : 113 ≤ E) (hE' : E ≤ 142) :
    f2hMagnitude E M = (E - 112) * 1024 + M / 8192 := by
  rw [f2hMagnitude, if_neg (by omega), if_neg (by omega), if_pos hE]

theorem f2hMagnitude_of_subnormal {E M : Nat} (hE : 102 ≤ E) (hE' : E ≤ 112) :
    f2hMagnitude E M = (8388608 + M) / 2 ^ (126 - E) := by
  rw [f2hMagnitude, if_neg (by omega), if_neg (by omega), if_neg (by omega), if_pos hE]

theorem f2hMagnitude_of_underflow {E M : Nat} (hE : E ≤ 101) : f2hMagnitude E M = 0 := by
  rw [f2hMagnitude, if_neg (by omega), if_neg (by omega), if_neg (by omega), if_neg (by omega)]

/-- R94: the truncated mantissa of a subnormal result has no bit above bit 9. -/
theorem f2h_subnormal_lt {E M : Nat} (hM : M < 8388608) (hE : E ≤ 112) : (8388608 + M) / 2 ^ (126 - E) < 1024 := by
  have hpow : 2 ^ 14 ≤ 2 ^ (126 - E) := Nat.pow_le_pow_right two_pos (by omega)
  rw [Nat.div_lt_iff_lt_mul (Nat.two_pow_pos _)]
  omega

/-- R93: sign and magnitude of the half. -/
theorem f2h_toNat (f : F32) : (f2h f).toNat = (fields32 f).s * 32768 + f2hMagnitude (fields32 f).E (fields32 f).M := by
  have hs := fields32_s_lt f
  have hM := fields32_M_lt f
  have hElt := fields32_E_lt f
  have hshift : (fields32 f).M >>> 13 = (fields32 f).M / 8192 := Nat.shiftRight_eq_div_pow _ 13
  rw [f2h, f2hFields, rebias_32_16, hshift]
  by_cases hones : (fields32 f).E = 255
  · rw [if_pos hones]
    by_cases hM0 : (fields32 f).M = 0
    · rw [if_pos hM0, pack16_toNat hs (by decide) (by decide), f2hMagnitude_of_infinity hones hM0]
    · obtain ⟨-, hlt⟩ := narrowNanMantissa_pos_lt (m := (fields32 f).M / 8192) (w := 1024) (by omega) (by decide)
      rw [if_neg hM0, pack16_toNat hs (by decide) hlt, f2hMagnitude_of_nan hones hM0]
      omega
  rw [if_neg hones]
  by_cases hover : 143 ≤ (fields32 f).E
  · rw [if_pos (by omega), pack16_toNat hs (by decide) (by decide), f2hMagnitude_of_overflow hover (by omega)]
  rw [if_neg (by omega)]
  by_cases hnormal : 113 ≤ (fields32 f).E
  · have hexp : (((fields32 f).E : Int) - 112).toNat = (fields32 f).E - 112 := by omega
    rw [if_neg (by omega), hexp, pack16_toNat hs (by omega) (by omega), f2hMagnitude_of_normal hnormal (by omega)]
    omega
  rw [if_pos (by omega)]
  by_cases hsub : 102 ≤ (fields32 f).E
  · have hexp : (14 - (((fields32 f).E : Int) - 112)).toNat = 126 - (fields32 f).E := by omega
    have hlead : 0x800000 ||| (fields32 f).M = 8388608 + (fields32 f).M :=
      shiftLeft_or_eq_add (x := 1) (n := 23) hM
    rw [if_neg (by omega), hexp, hlead, Nat.shiftRight_eq_div_pow,
      pack16_toNat hs (by decide) (f2h_subnormal_lt hM (by omega)), f2hMagnitude_of_subnormal hsub (by omega)]
    omega
  · rw [if_pos (by omega), pack16_toNat hs (by decide) (by decide), f2hMagnitude_of_underflow (by omega)]

/-- Settles O21: the magnitude of each branch beside the sign. -/
theorem f2hFollowsItsBranches : Obligations.F2hFollowsItsBranches := by
  intro f s
  refine ⟨f2h f, rfl, ?_⟩
  rw [f2h_toNat]
  refine ⟨fun hE hM => ?_, fun hE hM hlt => ?_, fun hE hge => ?_, fun hE hE' => ?_, fun hE hE' => ?_, fun hE hE' => ?_,
    fun hE => ?_⟩
  · rw [f2hMagnitude_of_infinity hE hM]
  · rw [f2hMagnitude_of_nan hE hM, Nat.div_eq_of_lt hlt, narrowNanMantissa_zero]
  · rw [f2hMagnitude_of_nan hE (by omega), narrowNanMantissa_of_ne_zero (by omega), Nat.add_assoc]
  · rw [f2hMagnitude_of_overflow hE hE']
  · rw [f2hMagnitude_of_normal hE hE', Nat.add_assoc]
  · rw [f2hMagnitude_of_subnormal hE hE']
  · rw [f2hMagnitude_of_underflow hE, Nat.add_zero]

/-! ### The branches of the inner narrowing -/

section Narrow

variable {d : F64}

/-- R101: infinity. -/
theorem fields32_narrow_of_infinity (hE : (fields64 d).E = 0x7FF) (hM : (fields64 d).M = 0) :
    fields32 (narrow d) = ⟨(fields64 d).s, 255, 0⟩ := by
  rw [narrow, narrowFields, if_pos hE, if_pos hM, fields32_pack32 (fields64_s_lt d) (by decide) (by decide)]

/-- R101: NaN. -/
theorem fields32_narrow_of_nan (hE : (fields64 d).E = 0x7FF) (hM : (fields64 d).M ≠ 0) :
    fields32 (narrow d) = ⟨(fields64 d).s, 255, narrowNanMantissa ((fields64 d).M / 2 ^ 29)⟩ := by
  have hMlt := fields64_M_lt d
  obtain ⟨-, hlt⟩ := narrowNanMantissa_pos_lt (m := (fields64 d).M / 2 ^ 29) (w := 8388608) (by omega) (by decide)
  rw [narrow, narrowFields, if_pos hE, if_neg hM, Nat.shiftRight_eq_div_pow, fields32_pack32 (fields64_s_lt d) (by decide) hlt]

/-- R101: too large for a float32 exponent field. -/
theorem fields32_narrow_of_overflow (hE : 1151 ≤ (fields64 d).E) (hE' : (fields64 d).E ≤ 2046) :
    fields32 (narrow d) = ⟨(fields64 d).s, 255, 0⟩ := by
  rw [narrow, narrowFields, if_neg (by omega), rebias_64_32, if_pos (by omega),
    fields32_pack32 (fields64_s_lt d) (by decide) (by decide)]

/-- R101: too small for a float32 normal. -/
theorem fields32_narrow_of_underflow (hE : (fields64 d).E ≤ 896) : fields32 (narrow d) = ⟨(fields64 d).s, 0, 0⟩ := by
  rw [narrow, narrowFields, if_neg (by omega), rebias_64_32, if_neg (by omega), if_pos (by omega),
    fields32_pack32 (fields64_s_lt d) (by decide) (by decide)]

/-- R101: a float32 normal. -/
theorem fields32_narrow_of_normal (hE : 897 ≤ (fields64 d).E) (hE' : (fields64 d).E ≤ 1150) :
    fields32 (narrow d) = ⟨(fields64 d).s, (fields64 d).E - 896, (fields64 d).M / 2 ^ 29⟩ := by
  have hMlt := fields64_M_lt d
  have hexp : (((fields64 d).E : Int) - 896).toNat = (fields64 d).E - 896 := by omega
  rw [narrow, narrowFields, if_neg (by omega), rebias_64_32, if_neg (by omega), if_neg (by omega), hexp,
    Nat.shiftRight_eq_div_pow, fields32_pack32 (fields64_s_lt d) (by omega) (by omega)]

end Narrow

/-- D2H of a pattern whose narrowed fields are known. -/
theorem d2h_toNat {d : F64} {s E M : Nat} (h : fields32 (narrow d) = ⟨s, E, M⟩) :
    (d2h d).toNat = s * 32768 + f2hMagnitude E M := by
  rw [d2h, f2h_toNat, h]

/-- Settles O23: the branches of F2H after those of the narrowing, whose two truncations are one. -/
theorem d2hEqualsTheDirectConversion : Obligations.D2hEqualsTheDirectConversion := by
  intro d s
  refine ⟨d2h d, rfl, fun hE hM => ?_, fun hE hM hlt => ?_, fun hE hge => ?_, fun hE hE' => ?_, fun hE hE' => ?_,
    fun hE hE' => ?_, fun hE => ?_⟩
  · rw [d2h_toNat (fields32_narrow_of_infinity hE hM), f2hMagnitude_of_infinity rfl rfl]
  · obtain ⟨hpos, hlt'⟩ := narrowNanMantissa_pos_lt (m := (fields64 d).M / 2 ^ 29) (w := 8192) (by omega) (by decide)
    rw [d2h_toNat (fields32_narrow_of_nan hE hM), f2hMagnitude_of_nan rfl hpos.ne', Nat.div_eq_of_lt hlt',
      narrowNanMantissa_zero]
  · have hshift : (fields64 d).M / 2 ^ 29 ≠ 0 := by omega
    rw [d2h_toNat (fields32_narrow_of_nan hE (by omega)), narrowNanMantissa_of_ne_zero hshift,
      f2hMagnitude_of_nan rfl (by omega), narrowNanMantissa_of_ne_zero (by omega)]
    omega
  · obtain hlarge | hsmall := Nat.lt_or_ge 1150 (fields64 d).E
    · rw [d2h_toNat (fields32_narrow_of_overflow hlarge hE'), f2hMagnitude_of_infinity rfl rfl]
    · rw [d2h_toNat (fields32_narrow_of_normal (by omega) hsmall), f2hMagnitude_of_overflow (by omega) (by omega)]
  · rw [d2h_toNat (fields32_narrow_of_normal (by omega) (by omega)), f2hMagnitude_of_normal (by omega) (by omega)]
    omega
  · have hexp : 1051 - (fields64 d).E = 29 + (126 - ((fields64 d).E - 896)) := by omega
    have hlead : (2 ^ 52 + (fields64 d).M) / 2 ^ 29 = 8388608 + (fields64 d).M / 2 ^ 29 := by omega
    rw [d2h_toNat (fields32_narrow_of_normal (by omega) (by omega)), f2hMagnitude_of_subnormal (by omega) (by omega), hexp,
      Nat.pow_add, ← Nat.div_div_eq_div_mul, hlead]
  · obtain hlarge | hsmall := Nat.lt_or_ge 896 (fields64 d).E
    · rw [d2h_toNat (fields32_narrow_of_normal hlarge (by omega)), f2hMagnitude_of_underflow (by omega), Nat.add_zero]
    · rw [d2h_toNat (fields32_narrow_of_underflow hsmall), f2hMagnitude_of_underflow (by decide), Nat.add_zero]

/-! ### Widening, then narrowing -/

/-- R97 on the magnitude: F2H drops what H2F added. -/
theorem f2hMagnitude_h2f (h : Half) :
    f2hMagnitude (fields32 (h2f h)).E (fields32 (h2f h)).M = (fields16 h).E * 1024 + (fields16 h).M := by
  have hW := h2f_widens h
  have hMlt := fields16_M_lt h
  have hElt := fields16_E_lt h
  by_cases hones : (fields16 h).E = 0x1F
  · obtain ⟨hE, hM⟩ := hW.allOnes hones
    by_cases hM0 : (fields16 h).M = 0
    · rw [f2hMagnitude_of_infinity hE (by omega)]; omega
    · have hback : (fields32 (h2f h)).M / 8192 = (fields16 h).M := by omega
      rw [f2hMagnitude_of_nan hE (by omega), hback, narrowNanMantissa_of_ne_zero hM0]; omega
  by_cases hF : (fields16 h).E = 0
  · by_cases hM0 : (fields16 h).M = 0
    · obtain ⟨hE, hM⟩ := hW.zero hF hM0
      rw [f2hMagnitude_of_underflow (by omega)]; omega
    · obtain ⟨k, hk, hk', hlead, hlt⟩ := exists_leading_shift (p := 10) (Nat.pos_of_ne_zero hM0) hMlt
      obtain ⟨hE, hM⟩ := hW.subnormal k hF hk hk' hlead hlt
      have hexp : 126 - (fields32 (h2f h)).E = k + 13 := by omega
      have hmant : 8388608 + (fields32 (h2f h)).M = (fields16 h).M * 2 ^ (k + 13) := by
        rw [hM, Nat.pow_add, ← Nat.mul_assoc]; omega
      rw [f2hMagnitude_of_subnormal (by omega) (by omega), hexp, hmant, Nat.mul_div_cancel _ (Nat.two_pow_pos _), hF,
        Nat.zero_mul, Nat.zero_add]
  · obtain ⟨hE, hM⟩ := hW.normal hones hF
    rw [f2hMagnitude_of_normal (by omega) (by omega)]; omega

/-- R97. -/
theorem f2h_h2f (h : Half) : f2h (h2f h) = h := by
  apply BitVec.eq_of_toNat_eq
  rw [f2h_toNat, f2hMagnitude_h2f, (h2f_widens h).sign, fields16_s, fields16_E, fields16_M]
  omega

theorem eq_of_fields32_eq {f g : F32} (h : fields32 f = fields32 g) : f = g := by
  rw [← pack32_fields32 f, h, pack32_fields32]

/-- R98, R101: narrowing drops what widening added, except to a float32 subnormal. -/
theorem narrow_widen {f : F32} (hsub : class32 f ≠ .subnormal) : narrow (widen f) = f := by
  have hW := widen_widens f
  have hElt := fields32_E_lt f
  have hscale : (fields32 f).M * 2 ^ 29 / 2 ^ 29 = (fields32 f).M := Nat.mul_div_cancel _ (Nat.two_pow_pos 29)
  refine eq_of_fields32_eq (Eq.symm ?_)
  by_cases hones : (fields32 f).E = 0xFF
  · obtain ⟨hE, hM⟩ := hW.allOnes hones
    by_cases hM0 : (fields32 f).M = 0
    · rw [fields32_narrow_of_infinity hE (by omega), Fields.eq_mk_iff]
      exact ⟨hW.sign.symm, hones, hM0⟩
    · rw [fields32_narrow_of_nan hE (by omega), hM, hscale, narrowNanMantissa_of_ne_zero hM0, Fields.eq_mk_iff]
      exact ⟨hW.sign.symm, hones, rfl⟩
  by_cases hF : (fields32 f).E = 0
  · have hM0 : (fields32 f).M = 0 := by
      by_contra hM0
      exact hsub (Fields.fpClass_eq_subnormal_iff.mpr ⟨hF, hM0⟩)
    obtain ⟨hE, -⟩ := hW.zero hF hM0
    rw [fields32_narrow_of_underflow (by omega), Fields.eq_mk_iff]
    exact ⟨hW.sign.symm, hF, hM0⟩
  · obtain ⟨hE, hM⟩ := hW.normal hones hF
    rw [fields32_narrow_of_normal (by omega) (by omega), hM, hscale, Fields.eq_mk_iff]
    exact ⟨hW.sign.symm, by omega, rfl⟩

/-- Q2 for the float64 pattern: the inner steps cancel, and F2H of H2F is left. -/
theorem d2h_h2d (h : Half) : d2h (h2d h) = h := by
  rw [d2h, h2d, narrow_widen (class32_h2f_ne_subnormal h), f2h_h2f]

/-- Settles O24: the second operation drives the half the first was given. -/
theorem wideningThenNarrowingIsIdentity : Obligations.WideningThenNarrowingIsIdentity := fun h s =>
  ⟨⟨h2f h, rfl, drive_placeHalf_congr (f2h_h2f h) s⟩,
    ⟨h2d h, rfl, drive_placeHalf_congr (d2h_h2d h) s⟩⟩

end Sys2Proof.Machine
end

section
/-! PROOF. What the narrowings keep: class and sign (R104), and the number as far as truncation can (R94, Q5). -/

namespace Sys2Proof.Machine

theorem class16_eq_zero_iff (h : Half) : class16 h = .zero ↔ h.toNat % 32768 = 0 := by
  obtain ⟨hzero, -⟩ := eachHalfHasOneClass h
  rw [← hzero, isZero16_iff]

theorem class16_eq_infinity_iff (h : Half) : class16 h = .infinity ↔ h.toNat % 32768 = 31744 := by
  obtain ⟨-, -, -, hinf, -⟩ := eachHalfHasOneClass h
  rw [← hinf, isInf16_iff]

theorem class16_eq_nan_iff (h : Half) : class16 h = .nan ↔ 31744 < h.toNat % 32768 := by
  obtain ⟨-, -, -, -, hnan⟩ := eachHalfHasOneClass h
  rw [← hnan, isNaN16_iff]

/-- F2H gives a magnitude above that of infinity to the NaN patterns alone. -/
theorem f2hMagnitude_le {E M : Nat} (hM : M < 8388608) (hE : E < 256) (hnan : ¬ (E = 255 ∧ M ≠ 0)) :
    f2hMagnitude E M ≤ 31744 := by
  obtain hu | hs | hn | ho | hi :
      E ≤ 101 ∨ (102 ≤ E ∧ E ≤ 112) ∨ (113 ≤ E ∧ E ≤ 142) ∨ (143 ≤ E ∧ E ≤ 254) ∨ E = 255 := by omega
  · rw [f2hMagnitude_of_underflow hu]; omega
  · have hlt := f2h_subnormal_lt hM hs.2
    rw [f2hMagnitude_of_subnormal hs.1 hs.2]; omega
  · rw [f2hMagnitude_of_normal hn.1 hn.2]; omega
  · rw [f2hMagnitude_of_overflow ho.1 ho.2]
  · rw [f2hMagnitude_of_infinity hi (by omega)]

theorem f2hMagnitude_nan_range {E M : Nat} (hM : M < 8388608) (hE : E = 255) (hM0 : M ≠ 0) :
    31744 < f2hMagnitude E M ∧ f2hMagnitude E M < 32768 := by
  have hmant := narrowNanMantissa_pos_lt (m := M / 8192) (w := 1024) (by omega) (by decide)
  rw [f2hMagnitude_of_nan hE hM0]
  omega

theorem f2hMagnitude_lt {E M : Nat} (hM : M < 8388608) (hE : E < 256) : f2hMagnitude E M < 32768 := by
  by_cases hnan : E = 255 ∧ M ≠ 0
  · exact (f2hMagnitude_nan_range hM hnan.1 hnan.2).2
  · have := f2hMagnitude_le hM hE hnan
    omega

/-- The magnitude of the half F2H gives. -/
theorem f2h_toNat_mod (f : F32) : (f2h f).toNat % 32768 = f2hMagnitude (fields32 f).E (fields32 f).M := by
  have hlt := f2hMagnitude_lt (fields32_M_lt f) (fields32_E_lt f)
  rw [f2h_toNat]
  omega

theorem fields16_f2h_s (f : F32) : (fields16 (f2h f)).s = (fields32 f).s := by
  have hlt := f2hMagnitude_lt (fields32_M_lt f) (fields32_E_lt f)
  rw [fields16_s, f2h_toNat]
  omega

theorem msb_f2h (f : F32) : (f2h f).msb = f.msb := by
  rw [msb_eq_of_fields16, msb_eq_of_fields32, fields16_f2h_s]

theorem class16_f2h_of_zero {f : F32} (hE : (fields32 f).E = 0) : class16 (f2h f) = .zero := by
  rw [class16_eq_zero_iff, f2h_toNat_mod, f2hMagnitude_of_underflow (by omega)]

theorem class16_f2h_eq_nan_iff (f : F32) : class16 (f2h f) = .nan ↔ class32 f = .nan := by
  have hM := fields32_M_lt f
  rw [class16_eq_nan_iff, f2h_toNat_mod, class32, Fields.fpClass_eq_nan_iff (by decide)]
  constructor
  · intro hmag
    by_contra hnan
    exact absurd hmag (Nat.not_lt.mpr (f2hMagnitude_le hM (fields32_E_lt f) hnan))
  · rintro ⟨hE, hM0⟩
    exact (f2hMagnitude_nan_range hM hE hM0).1

theorem class16_f2h_of_infinity {f : F32} (h : class32 f = .infinity) : class16 (f2h f) = .infinity := by
  obtain ⟨hE, hM⟩ := (Fields.fpClass_eq_infinity_iff (by decide)).mp h
  rw [class16_eq_infinity_iff, f2h_toNat_mod, f2hMagnitude_of_infinity hE hM]

/-- Every branch of the inner narrowing keeps the sign, and gives a NaN for a NaN alone. -/
theorem narrow_sign_and_nan (d : F64) :
    (fields32 (narrow d)).s = (fields64 d).s ∧ (class32 (narrow d) = .nan ↔ class64 d = .nan) := by
  rw [class32, class64, Fields.fpClass_eq_nan_iff (by decide), Fields.fpClass_eq_nan_iff (by decide)]
  have hElt := fields64_E_lt d
  have hMlt := fields64_M_lt d
  obtain hu | hn | ho | hi :
      (fields64 d).E ≤ 896 ∨ (897 ≤ (fields64 d).E ∧ (fields64 d).E ≤ 1150) ∨
      (1151 ≤ (fields64 d).E ∧ (fields64 d).E ≤ 2046) ∨ (fields64 d).E = 2047 := by omega
  · rw [fields32_narrow_of_underflow hu]
    exact ⟨rfl, iff_of_false (fun h => absurd h.1 (by dsimp only; decide)) (by omega)⟩
  · rw [fields32_narrow_of_normal hn.1 hn.2]
    exact ⟨rfl, iff_of_false (fun h => absurd h.1 (by dsimp only; omega)) (by omega)⟩
  · rw [fields32_narrow_of_overflow ho.1 ho.2]
    exact ⟨rfl, iff_of_false (fun h => h.2 rfl) (by omega)⟩
  · by_cases hM : (fields64 d).M = 0
    · rw [fields32_narrow_of_infinity hi hM]
      exact ⟨rfl, iff_of_false (fun h => h.2 rfl) (fun h => h.2 hM)⟩
    · have hpos := (narrowNanMantissa_pos_lt (m := (fields64 d).M / 2 ^ 29) (w := 8388608) (by omega) (by decide)).1
      rw [fields32_narrow_of_nan hi hM]
      exact ⟨rfl, iff_of_true ⟨rfl, hpos.ne'⟩ ⟨hi, hM⟩⟩

theorem class32_narrow_of_infinity {d : F64} (h : class64 d = .infinity) : class32 (narrow d) = .infinity := by
  obtain ⟨hE, hM⟩ := (Fields.fpClass_eq_infinity_iff (by decide)).mp h
  rw [class32, fields32_narrow_of_infinity hE hM]
  rfl

theorem msb_d2h (d : F64) : (d2h d).msb = d.msb := by
  rw [d2h, msb_f2h, msb_eq_of_fields32, msb_eq_of_fields64, (narrow_sign_and_nan d).1]

/-- The zeros and the subnormals are the patterns with exponent field 0. -/
theorem Fields.E_eq_zero_of_fpClass {emax : Nat} {F : Fields} (h : F.fpClass emax = .zero ∨ F.fpClass emax = .subnormal) :
    F.E = 0 := by
  obtain h | h := h
  · exact (Fields.fpClass_eq_zero_iff.mp h).1
  · exact (Fields.fpClass_eq_subnormal_iff.mp h).1

/-- Settles O25: the widenings by `Widens`, the narrowings by their branches. -/
theorem conversionsKeepClassAndSign : Obligations.ConversionsKeepClassAndSign := by
  refine fun s => ⟨fun h => ⟨h2f h, h2d h, rfl, rfl, msb_h2f h, ?_, class64_h2d h, class32_h2f h⟩,
    fun f => ⟨f2h f, rfl, msb_f2h f, fun h => ?_, class16_f2h_eq_nan_iff f, class16_f2h_of_infinity⟩,
    fun d => ⟨d2h d, rfl, msb_d2h d, fun h => ?_, ?_, fun h => ?_⟩⟩
  · rw [h2d, msb_widen, msb_h2f]
  · exact class16_f2h_of_zero (Fields.E_eq_zero_of_fpClass h)
  · have hE : (fields64 d).E = 0 := Fields.E_eq_zero_of_fpClass h
    refine class16_f2h_of_zero ?_
    rw [fields32_narrow_of_underflow (by omega)]
  · rw [d2h, class16_f2h_eq_nan_iff, (narrow_sign_and_nan d).2]
  · exact class16_f2h_of_infinity (class32_narrow_of_infinity h)

/-! ### F2H as truncation of the number -/

/-- Between the units of neighbouring magnitudes, the lower one is the largest not above. -/
theorem le_iff_units_le {p m n c q : Nat} (hle : units p m * c ≤ q) (hlt : q < units p (m + 1) * c) :
    n ≤ m ↔ units p n * c ≤ q := by
  have hmono := (units_strictMono p).monotone
  constructor
  · intro h
    exact (Nat.mul_le_mul_right c (hmono h)).trans hle
  · intro h
    by_contra hnm
    have hnext := Nat.mul_le_mul_right c (hmono (Nat.lt_of_not_le hnm))
    exact absurd (hlt.trans_le hnext) (Nat.not_lt.mpr h)

/-- The units of a normal half, with the half's own numerals. -/
theorem units_of_half_fields {e m : Nat} (he : 1 ≤ e) (hm : m ≤ 1024) :
    units 10 (e * 1024 + m) = (1024 + m) * 2 ^ (e - 1) := by
  have h := units_of_fields_le (p := 10) he hm
  rwa [show 2 ^ 10 = 1024 from rfl] at h

/-- R94, the normal results: the units of the truncated mantissa and of the next one enclose the source's. -/
theorem units_enclose_of_normal {E M : Nat} (hM : M < 8388608) (hE : 113 ≤ E) :
    units 10 ((E - 112) * 1024 + M / 8192) * 2 ^ 125 ≤ units 23 (E * 2 ^ 23 + M) ∧
      units 23 (E * 2 ^ 23 + M) < units 10 ((E - 112) * 1024 + M / 8192 + 1) * 2 ^ 125 := by
  have hlow := units_of_half_fields (by omega : 1 ≤ E - 112) (by omega : M / 8192 ≤ 1024)
  have hnext := units_of_half_fields (by omega : 1 ≤ E - 112) (by omega : M / 8192 + 1 ≤ 1024)
  have hsource := units_of_fields (p := 23) (by omega : 1 ≤ E) hM
  rw [← Nat.add_assoc] at hnext
  have hscale : 2 ^ (E - 112 - 1) * 2 ^ 125 = 8192 * 2 ^ (E - 1) := by
    rw [← Nat.pow_add, show 8192 = 2 ^ 13 from rfl, ← Nat.pow_add]
    congr 1
    omega
  rw [hlow, hnext, hsource, Nat.mul_assoc, Nat.mul_assoc, hscale, ← Nat.mul_assoc, ← Nat.mul_assoc]
  exact ⟨Nat.mul_le_mul_right _ (by omega), Nat.mul_lt_mul_of_pos_right (by omega) (Nat.two_pow_pos _)⟩

/-- R94, the subnormal results: the same for the quotient by the shift. -/
theorem units_enclose_of_subnormal {E M : Nat} (hM : M < 8388608) (hE : 102 ≤ E) (hE' : E ≤ 112) :
    units 10 ((8388608 + M) / 2 ^ (126 - E)) * 2 ^ 125 ≤ units 23 (E * 2 ^ 23 + M) ∧
      units 23 (E * 2 ^ 23 + M) < units 10 ((8388608 + M) / 2 ^ (126 - E) + 1) * 2 ^ 125 := by
  have hlt := f2h_subnormal_lt hM hE'
  have hscale : 2 ^ 125 = 2 ^ (126 - E) * 2 ^ (E - 1) := by
    rw [← Nat.pow_add]
    congr 1
    omega
  rw [units_of_le (p := 10) hlt.le, units_of_le (p := 10) hlt, units_of_fields (by omega) hM, hscale, ← Nat.mul_assoc,
    ← Nat.mul_assoc]
  exact ⟨Nat.mul_le_mul_right _ (Nat.div_mul_le_self _ _),
    Nat.mul_lt_mul_of_pos_right (by rw [Nat.mul_comm]; exact Nat.lt_mul_div_succ _ (Nat.two_pow_pos _)) (Nat.two_pow_pos _)⟩

/-- R94, the zero results: the source is below one unit. -/
theorem units_lt_of_underflow {E M : Nat} (hM : M < 8388608) (hE : E ≤ 101) :
    units 23 (E * 2 ^ 23 + M) < units 10 1 * 2 ^ 125 := by
  have hbound : units 23 (102 * 2 ^ 23 + 0) = 2 ^ 124 := by rw [units_of_fields (by decide) (by decide)]; rfl
  rw [units_of_lt (p := 10) (by decide), Nat.one_mul]
  calc units 23 (E * 2 ^ 23 + M) < units 23 (102 * 2 ^ 23 + 0) := units_strictMono 23 (by omega)
    _ = 2 ^ 124 := hbound
    _ < 2 ^ 125 := by decide

/-- R94, the infinite results: the source has at least the units that would follow the largest finite half. -/
theorem units_le_of_overflow {E M : Nat} (hE : 143 ≤ E) : units 10 31744 * 2 ^ 125 ≤ units 23 (E * 2 ^ 23 + M) := by
  have hinf : units 10 (31 * 2 ^ 10 + 0) * 2 ^ 125 = units 23 (143 * 2 ^ 23 + 0) := by
    rw [units_of_fields (by decide) (by decide), units_of_fields (by decide) (by decide)]; rfl
  calc units 10 31744 * 2 ^ 125 = units 23 (143 * 2 ^ 23 + 0) := hinf
    _ ≤ units 23 (E * 2 ^ 23 + M) := (units_strictMono 23).monotone (by omega)

/-- R94: F2H truncates. A magnitude up to that of infinity is not above the one F2H gives exactly when its units, at the 2^125
float32 units each, are not above the source's. -/
theorem le_f2hMagnitude_iff {E M n : Nat} (hM : M < 8388608) (hE : E < 256) (hnan : ¬ (E = 255 ∧ M ≠ 0)) (hn : n ≤ 31744) :
    n ≤ f2hMagnitude E M ↔ units 10 n * 2 ^ 125 ≤ units 23 (E * 2 ^ 23 + M) := by
  obtain hu | hs | hn' | ho :
      E ≤ 101 ∨ (102 ≤ E ∧ E ≤ 112) ∨ (113 ≤ E ∧ E ≤ 142) ∨ 143 ≤ E := by omega
  · rw [f2hMagnitude_of_underflow hu]
    exact le_iff_units_le (by rw [units_of_lt (by decide), Nat.zero_mul]; exact Nat.zero_le _) (units_lt_of_underflow hM hu)
  · obtain ⟨hlow, hnext⟩ := units_enclose_of_subnormal hM hs.1 hs.2
    rw [f2hMagnitude_of_subnormal hs.1 hs.2]
    exact le_iff_units_le hlow hnext
  · obtain ⟨hlow, hnext⟩ := units_enclose_of_normal hM hn'.1
    rw [f2hMagnitude_of_normal hn'.1 hn'.2]
    exact le_iff_units_le hlow hnext
  · have hmag : f2hMagnitude E M = 31744 := by
      obtain hfin | hinf : E ≤ 254 ∨ E = 255 := by omega
      · exact f2hMagnitude_of_overflow ho hfin
      · exact f2hMagnitude_of_infinity hinf (by omega)
    rw [hmag]
    refine iff_of_true hn ((Nat.mul_le_mul_right _ ?_).trans (units_le_of_overflow ho))
    exact (units_strictMono 10).monotone hn

/-- The magnitude of a finite number, in units. -/
theorem Fields.abs_finiteVal {φ : FpFormat} {F : Fields} (hM : F.M < 2 ^ φ.p) :
    |F.finiteVal φ.bias φ.p| = units φ.p (F.mag φ.p) * φ.unit := by
  rw [Fields.finiteVal_eq_units hM, abs_mul, abs_neg_one_pow, one_mul]
  exact abs_of_nonneg (mul_nonneg (Nat.cast_nonneg _) φ.unit_pos.le)

/-- A half's unit is 2^125 float32 units. -/
theorem unit16_eq : binary16.unit = 2 ^ 125 * binary32.unit := by
  norm_num [FpFormat.unit, binary16, binary32, bias16, bias32]

theorem half_units_le_iff (a u : Nat) : (a : ℚ) * binary16.unit ≤ u * binary32.unit ↔ a * 2 ^ 125 ≤ u := by
  rw [unit16_eq, ← mul_assoc, mul_le_mul_iff_left₀ binary32.unit_pos]
  exact_mod_cast Iff.rfl

/-- R94 in numbers: the halves whose value is not above the source's are those up to the magnitude F2H gives. -/
theorem le_mag_f2h_iff {f : F32} (hE : (fields32 f).E ≠ 255) {n : Nat} (hn : n ≤ 31744) :
    n ≤ (f2h f).toNat % 32768 ↔ (units 10 n : ℚ) * binary16.unit ≤ |(fields32 f).finiteVal bias32 23| := by
  have habs : |(fields32 f).finiteVal bias32 23| = _ := Fields.abs_finiteVal (φ := binary32) (fields32_M_lt f)
  rw [habs, half_units_le_iff, f2h_toNat_mod]
  exact le_f2hMagnitude_iff (fields32_M_lt f) (fields32_E_lt f) (fun h => hE h.1) hn

theorem unit16_units_one : (units 10 1 : ℚ) * binary16.unit = 2 ^ (-24 : Int) := by
  norm_num [units, FpFormat.unit, binary16, bias16]

/-- The units that would follow the largest finite half are worth 65536. -/
theorem unit16_units_infinity : (units 10 31744 : ℚ) * binary16.unit = 65536 := by
  norm_num [units, FpFormat.unit, binary16, bias16]

/-- Settles O22: each bound and each half is compared through its magnitude by `le_mag_f2h_iff`. -/
theorem f2hTruncatesTheNumber : Obligations.F2hTruncatesTheNumber := by
  intro f s hE
  have hle : (f2h f).toNat % 32768 ≤ 31744 := by
    rw [f2h_toNat_mod]
    exact f2hMagnitude_le (fields32_M_lt f) (fields32_E_lt f) (fun h => hE h.1)
  have habs (g : Half) : |(fields16 g).finiteVal bias16 10| = units 10 (g.toNat % 32768) * binary16.unit := by
    rw [← fields16_mag]
    exact Fields.abs_finiteVal (φ := binary16) (fields16_M_lt g)
  have hfinite (g : Half) : (fields16 g).E ≠ 31 ↔ g.toNat % 32768 < 31744 := by
    rw [fields16_E]; omega
  refine ⟨f2h f, rfl, msb_f2h f, fun hq => ?_, fun _ hq => ⟨?_, ?_, fun g hg hgq => ?_⟩, fun hq => ?_⟩
  · rw [← unit16_units_one, ← not_le, ← le_mag_f2h_iff hE (by decide)] at hq
    rw [class16_eq_zero_iff]
    omega
  · rw [← unit16_units_infinity, ← not_le, ← le_mag_f2h_iff hE (by decide)] at hq
    rw [hfinite]
    omega
  · rw [habs]
    exact (le_mag_f2h_iff hE hle).mp le_rfl
  · rw [habs] at hgq ⊢
    rw [habs]
    have hmag := (le_mag_f2h_iff hE ((hfinite g).mp hg).le).mpr hgq
    exact mul_le_mul_of_nonneg_right (Nat.cast_le.mpr ((units_strictMono 10).monotone hmag)) binary16.unit_pos.le
  · rw [← unit16_units_infinity, ← le_mag_f2h_iff hE (by decide)] at hq
    rw [class16_eq_infinity_iff]
    omega

/-! ### F2H keeps the order -/

/-- A float32 pattern that stands for a number is no NaN, and the number is that of its key. -/
theorem val32_eq_some {f : F32} {a : ExtNum} (h : val32 f = some a) :
    ¬ ((fields32 f).E = 255 ∧ (fields32 f).M ≠ 0) ∧
      (fields32 f).key 23 ∈ Set.Icc (-(binary32.inf : Int)) binary32.inf ∧ a = binary32.num ((fields32 f).key 23) := by
  have hElt := fields32_E_lt f
  have hM := fields32_M_lt f
  have hnan : ¬ ((fields32 f).E = 255 ∧ (fields32 f).M ≠ 0) := by
    rintro ⟨hE, hM0⟩
    exact absurd (h.symm.trans (Fields.val_of_nan hE hM0)) (by simp)
  have hmag : (fields32 f).mag 23 ≤ 255 * 2 ^ 23 := by
    unfold Fields.mag
    omega
  have hval : val32 f = some (binary32.num ((fields32 f).key 23)) :=
    Fields.val_eq_num (φ := binary32) (by decide) (fields32_s_lt f) hM hmag
  refine ⟨hnan, ?_, Option.some.inj (h.symm.trans hval)⟩
  change -((255 * 2 ^ 23 : Nat) : Int) ≤ _ ∧ _ ≤ ((255 * 2 ^ 23 : Nat) : Int)
  obtain ⟨-, hkey⟩ | ⟨-, hkey⟩ := (fields32 f).key_cases (p := 23) (fields32_s_lt f) <;> rw [hkey] <;> omega

theorem f2hMagnitude_mono {E M E' M' : Nat} (hM : M < 8388608) (hE : E < 256) (hnan : ¬ (E = 255 ∧ M ≠ 0))
    (hM' : M' < 8388608) (hE' : E' < 256) (hnan' : ¬ (E' = 255 ∧ M' ≠ 0)) (hle : E * 2 ^ 23 + M ≤ E' * 2 ^ 23 + M') :
    f2hMagnitude E M ≤ f2hMagnitude E' M' := by
  have hmax := f2hMagnitude_le hM hE hnan
  rw [le_f2hMagnitude_iff hM' hE' hnan' hmax]
  exact ((le_f2hMagnitude_iff hM hE hnan hmax).mp le_rfl).trans ((units_strictMono 23).monotone hle)

/-- F2H acts on the magnitude beside the sign. -/
theorem key16_f2h_cases (f : F32) :
    ((fields32 f).key 23 = (fields32 f).mag 23 ∧ key16 (f2h f) = f2hMagnitude (fields32 f).E (fields32 f).M) ∨
    ((fields32 f).key 23 = -((fields32 f).mag 23 : Int) ∧
      key16 (f2h f) = -(f2hMagnitude (fields32 f).E (fields32 f).M : Int)) := by
  rw [← fields16_key, Fields.key, Fields.key, fields16_mag, f2h_toNat_mod, fields16_f2h_s]
  by_cases hs : (fields32 f).s = 1
  · rw [if_pos hs, if_pos hs]; exact .inr ⟨rfl, rfl⟩
  · rw [if_neg hs, if_neg hs]; exact .inl ⟨rfl, rfl⟩

/-- F2H keeps the order of the keys: of two negative ones the magnitudes are exchanged, and across the zeros the signs decide. -/
theorem key16_f2h_mono {f g : F32} (hf : ¬ ((fields32 f).E = 255 ∧ (fields32 f).M ≠ 0))
    (hg : ¬ ((fields32 g).E = 255 ∧ (fields32 g).M ≠ 0)) (hkey : (fields32 f).key 23 ≤ (fields32 g).key 23) :
    key16 (f2h f) ≤ key16 (f2h g) := by
  have hfM := fields32_M_lt f
  have hgM := fields32_M_lt g
  have hfE := fields32_E_lt f
  have hgE := fields32_E_lt g
  obtain ⟨hf32, hf16⟩ | ⟨hf32, hf16⟩ := key16_f2h_cases f <;>
    obtain ⟨hg32, hg16⟩ | ⟨hg32, hg16⟩ := key16_f2h_cases g <;> rw [hf32, hg32] at hkey <;> rw [hf16, hg16]
  · exact Int.ofNat_le.mpr (f2hMagnitude_mono hfM hfE hf hgM hgE hg (Int.ofNat_le.mp hkey))
  · unfold Fields.mag at hkey
    have hfzero : (fields32 f).E ≤ 101 := by omega
    have hgzero : (fields32 g).E ≤ 101 := by omega
    rw [f2hMagnitude_of_underflow hfzero, f2hMagnitude_of_underflow hgzero]
    rfl
  · omega
  · exact neg_le_neg (Int.ofNat_le.mpr (f2hMagnitude_mono hgM hgE hg hfM hfE hf (Int.ofNat_le.mp (neg_le_neg_iff.mp hkey))))

theorem isNaN16_f2h_of_not_nan {f : F32} (hf : ¬ ((fields32 f).E = 255 ∧ (fields32 f).M ≠ 0)) : isNaN16 (f2h f) = false := by
  rw [← Bool.not_eq_true, isNaN16_iff, f2h_toNat_mod, Nat.not_lt]
  exact f2hMagnitude_le (fields32_M_lt f) (fields32_E_lt f) hf

/-- Settles O26: numbers are compared by their keys, whose order F2H keeps. -/
theorem f2hIsMonotone : Obligations.F2hIsMonotone := by
  rintro f g s ⟨a, b, hf, hg, hab⟩
  obtain ⟨hfnan, hfkey, rfl⟩ := val32_eq_some hf
  obtain ⟨hgnan, hgkey, rfl⟩ := val32_eq_some hg
  have hkey := (binary32.num_strictMonoOn.le_iff_le hfkey hgkey).mp hab
  refine ⟨f2h f, f2h g, rfl, rfl, ?_⟩
  rw [← fle_iff_related, fle_iff]
  exact ⟨isNaN16_f2h_of_not_nan hfnan, isNaN16_f2h_of_not_nan hgnan, key16_f2h_mono hfnan hgnan hkey⟩

end Sys2Proof.Machine
end
